-- ==== Sys2Proof/Word.lean ====
section
/-! DEFINITION. Word: the plain value types of both blocks (bits, bytes, line levels, actions). -/

namespace Sys2Proof

/-- A byte of the serial transport (00_scope R8). -/
abbrev Byte := BitVec 8

/-- One bit: `true` is 1, `false` is 0 (00_scope R11). -/
abbrev Bit := Bool

/-- An ordered list of bits; index 0 is transmitted first (00_scope R7). -/
abbrev BitSequence := List Bit

/-- The operand of STORE_NAME: NAME_LEN bytes (20_memory R70); the decoder and well-formedness hold it to that length,
which is a constant of the machine (00_scope R5). -/
abbrev NameBytes := List Byte

/-- The level of the radio line (10_state R20). -/
inductive Level where
  | low
  | high
  deriving DecidableEq, Repr, Inhabited

/-- The tagged two-variant action (30_encoding R104). -/
inductive Action where
  | on
  | off
  deriving DecidableEq, Repr, Inhabited

/-- The two independent blocks (00_scope R1). -/
inductive Block where
  | rtx
  | slp
  deriving DecidableEq, Repr, Inhabited

/-- What SerOpen, SerWrite or SerFlush answers (93 U7). -/
inductive IoAnswer where
  | ok
  | fail
  deriving DecidableEq, Repr, Inhabited

/-- What the transport has for one SerReadLine (20_memory R73): the bytes received for a complete line,
no complete line within the timeout, or a transport error. The content of the line is computed from the
bytes by `lineContent`. -/
inductive ReadAnswer where
  | line (raw : List Byte)
  | timeout
  | fail
  deriving DecidableEq, Repr, Inhabited

end Sys2Proof
end

