-- ==== Sys2Proof/Config.lean ====
section
/-! DEFINITION. Config: the constants of 00_scope R5 (10_state R22), the OPEN parameters and the free values.

Every constant of R5 is a field; one whose value the spec gives has that value as its default (D7). Marks: the OPEN
parameters and the free answers are opaque constants (log 1, log 2, log 21: DESIGN CHOICE, safe); which values other
than the documented ones make a machine is `Config.Ok` (log 3: DEDUCED, safe). -/

namespace Sys2Proof

/-- The constant store: read-only, the same in every state (10_state R22, 00_scope R5). Durations are in
microseconds. -/
structure Config where
  /-- T_BIT -/
  tBit : Nat := 720
  /-- T_HIGH0 -/
  tHigh0 : Nat := 180
  /-- T_HIGH1 -/
  tHigh1 : Nat := 540
  /-- T_SETTLE -/
  tSettle : Nat := 5000
  /-- T_TOL, an approximate conformance bound no rule uses (40 R135). -/
  tTol : Nat := 20
  /-- ADDR_BITS -/
  addrBits : Nat := 8
  /-- UNIT_BITS -/
  unitBits : Nat := 12
  /-- ACTION_BITS -/
  actionBits : Nat := 4
  /-- END_BITS -/
  endBits : Nat := 1
  /-- FRAME_BITS -/
  frameBits : Nat := 25
  /-- ACTION_ON, in transmission order (30_encoding R104). -/
  actionOn : BitSequence := [false, false, true, true]
  /-- ACTION_OFF, in transmission order (30_encoding R104). -/
  actionOff : BitSequence := [true, true, false, false]
  /-- END_MARK (41 R150). -/
  endMark : BitSequence := [false]
  /-- UNIT_CODE(1) .. UNIT_CODE(5), each in transmission order. -/
  unitCode : Vector BitSequence 5
  /-- ALL_ADDRESS -/
  allAddress : Int := 85
  /-- ALL_UNIT -/
  allUnit : Int := 3
  /-- DEFAULT_RETRIES -/
  defaultRetries : Int := 6
  /-- VALID_PINS -/
  validPins : List Int
  /-- BAUD; no rule depends on it (93 U9). -/
  baud : Nat
  /-- T_RESET_SETTLE -/
  tResetSettle : Nat
  /-- T_READ_TIMEOUT; it belongs to the transport, whose answer `timeout` stands for it (60 R325). -/
  tReadTimeout : Nat := 2000000
  /-- EXPECTED_CODENAME: the 17 bytes SerialArduinoGpio (43 R203). -/
  expectedCodename : List Byte :=
    [0x53, 0x65, 0x72, 0x69, 0x61, 0x6C] ++ [0x41, 0x72, 0x64, 0x75, 0x69, 0x6E, 0x6F]
      ++ [0x47, 0x70, 0x69, 0x6F]
  /-- MIN_VERSION -/
  minVersion : Nat := 2
  /-- V_NAME -/
  vName : Nat := 2
  /-- V_SAVE_PO -/
  vSavePo : Nat := 2
  /-- V_READ_PO -/
  vReadPo : Nat := 3
  /-- NAME_LEN, in bytes -/
  nameLen : Nat := 16
  /-- DPIN_MIN -/
  dpinMin : Nat := 2
  /-- DPIN_MAX -/
  dpinMax : Nat := 13
  /-- APIN_MIN -/
  apinMin : Nat := 0
  /-- APIN_MAX -/
  apinMax : Nat := 7
  /-- ANALOG_MAX -/
  analogMax : Nat := 1023
  /-- TICK, the clock period of the register-transfer refinement (70 R357, 93 U14). -/
  tick : Nat
  deriving DecidableEq, Repr

/-- OPEN (N1, D14): the five 12-bit unit codes; nothing else is known of them. -/
opaque Config.unitCodeTable : Vector (Vector Bit 12) 5

/-- OPEN (N2, D15): the platform's valid pins, a set of integers. -/
opaque Config.validPinSet : List Int

/-- OPEN (N6, D16): the baud rate. -/
opaque Config.baudRate : Nat

/-- OPEN (N6, D16): the reset-settle delay. -/
opaque Config.resetSettleDelay : Nat

/-- OPEN (70 R357, U14): the clock period of the register-transfer refinement. -/
opaque Config.clockTick : Nat

/-- Free (93 U7): the n-th answer of an open, write or flush that no given answer covers. -/
opaque Config.freeIoAnswer : Nat → IoAnswer

/-- Free (93 U7): the n-th answer of a read that no given answer covers. -/
opaque Config.freeReadAnswer : Nat → ReadAnswer

/-- The constants of the machine: documented values, and the OPEN parameters. -/
def Config.platform : Config where
  unitCode := Config.unitCodeTable.map Vector.toList
  validPins := Config.validPinSet
  baud := Config.baudRate
  tResetSettle := Config.resetSettleDelay
  tick := Config.clockTick

/-- The two invariants the source states on the timing parameters (00_scope R5), with 40 R130 and 93 U10. -/
abbrev Config.TimingOk (c : Config) : Prop :=
  0 < c.tHigh0 ∧ c.tHigh0 < c.tHigh1 ∧ c.tHigh1 < c.tBit ∧ c.tHigh1 = c.tBit - c.tHigh0

/-- The fields of a frame have their fixed lengths and make up the frame (00_scope R5, 20_memory R70, 41 R150); the two
action patterns differ (30_encoding R104). -/
abbrev Config.FrameOk (c : Config) : Prop :=
  c.frameBits = c.addrBits + c.unitBits + c.actionBits + c.endBits ∧
    c.actionOn.length = c.actionBits ∧ c.actionOff.length = c.actionBits ∧ c.actionOn ≠ c.actionOff ∧
    c.endMark.length = c.endBits ∧ ∀ code ∈ c.unitCode.toList, code.length = c.unitBits

/-- The ALL pair passes BUILD's checks (42 R180), and the default retry count passes OPEN's (42 R171). -/
abbrev Config.AllPairOk (c : Config) : Prop :=
  (0 ≤ c.allAddress ∧ c.allAddress < 2 ^ c.addrBits ∧ 1 ≤ c.allUnit ∧ c.allUnit ≤ 5) ∧ 1 ≤ c.defaultRetries

/-- The pin ranges keep the command bytes of 30_encoding R109 apart: the digits below `=`, the capital letters below the
version query 0x60, the small ones below 0x80 (20_memory R69). -/
abbrev Config.WireOk (c : Config) : Prop := c.apinMax ≤ 12 ∧ c.dpinMax ≤ 30

/-- The constraints on the parameters (log 3). -/
abbrev Config.Ok (c : Config) : Prop := c.TimingOk ∧ c.FrameOk ∧ c.AllPairOk ∧ c.WireOk

/-- The documented timing (00_scope R5), for claims about the documented durations (D7). -/
abbrev Config.DocumentedTiming (c : Config) : Prop :=
  c.tBit = 720 ∧ c.tHigh0 = 180 ∧ c.tHigh1 = 540 ∧ c.tSettle = 5000

/-- The documented frame layout (00_scope R5), for claims about the documented positions (D7). -/
abbrev Config.DocumentedFrame (c : Config) : Prop :=
  (c.addrBits = 8 ∧ c.unitBits = 12 ∧ c.actionBits = 4 ∧ c.endBits = 1 ∧ c.frameBits = 25) ∧
    c.actionOn = [false, false, true, true] ∧ c.actionOff = [true, true, false, false] ∧ c.endMark = [false]

/-- The documented ranges of SLP (00_scope R5), for claims about the documented pins and lengths (D7). -/
abbrev Config.DocumentedRanges (c : Config) : Prop :=
  c.nameLen = 16 ∧ c.dpinMin = 2 ∧ c.dpinMax = 13 ∧ c.apinMin = 0 ∧ c.apinMax = 7 ∧ c.analogMax = 1023

end Sys2Proof
end

