-- ==== Sys2Proof/Syntax.lean ====
section
/-! DEFINITION. Syntax: one constructor of Instr per row of spec/opcode_table.json, the encoded images an
instruction has, and the named reasons a decoder rejects an image. -/

namespace Sys2Proof

/-- One constructor per row of the opcode table (30_encoding R108, R118). Integer operands are mathematical
integers (00_scope R8). -/
inductive Instr where
  /-- RTX.OPEN (42 R171) -/
  | rtxOpen (pin retries : Int)
  /-- RTX.TRANSMIT (42 R176) -/
  | rtxTransmit (address unit : Int) (action : Action)
  /-- RTX.TRANSMIT_ALL (42 R180) -/
  | rtxTransmitAll (action : Action)
  /-- RTX.CLOSE (42 R184) -/
  | rtxClose
  /-- SLP.CONNECT (43 R201) -/
  | slpConnect
  /-- SLP.GET_VERSION (43 R206) -/
  | slpGetVersion
  /-- SLP.GET_VERSION_NUMBER (43 R207) -/
  | slpGetVersionNumber
  /-- SLP.SET_DIGITAL (44 R231); `value` 1 = HIGH -/
  | slpSetDigital (pin : Int) (value : Bit)
  /-- SLP.READ_DIGITAL (44 R233) -/
  | slpReadDigital
  /-- SLP.READ_ANALOG (44 R236) -/
  | slpReadAnalog (pin : Int)
  /-- SLP.GET_NAME (45 R261) -/
  | slpGetName
  /-- SLP.STORE_NAME (45 R263) -/
  | slpStoreName (name : NameBytes)
  /-- SLP.SAVE_POWER_ON (45 R265) -/
  | slpSavePowerOn
  /-- SLP.READ_POWER_ON (45 R267) -/
  | slpReadPowerOn
  /-- SLP.CLOSE (43 R208) -/
  | slpClose
  /-- W.QUERY_VERSION: byte 0x60 (30 R118; issued by CONNECT) -/
  | wQueryVersion
  /-- W.READ_DIGITAL: byte 0x3F -/
  | wReadDigital
  /-- W.SET_HIGH: byte 0x41 + pin, pin DPIN_MIN..DPIN_MAX -/
  | wSetHigh (pin : Nat)
  /-- W.SET_LOW: byte 0x61 + pin, pin DPIN_MIN..DPIN_MAX -/
  | wSetLow (pin : Nat)
  /-- W.READ_ANALOG: byte 0x30 + pin, pin APIN_MIN..APIN_MAX -/
  | wReadAnalog (pin : Nat)
  /-- W.SAVE_POWER_ON: byte 0x2B -/
  | wSavePowerOn
  /-- W.READ_POWER_ON: byte 0x2D -/
  | wReadPowerOn
  /-- W.READ_NAME: byte 0x3D -/
  | wReadName
  /-- W.STORE_NAME: byte 0x23 and NAME_LEN payload bytes -/
  | wStoreName (name : NameBytes)
  /-- TX_ON: a frame whose action field is ACTION_ON; its address and unit fields in sending order (30 R118, R92) -/
  | txOn (address code : BitSequence)
  /-- TX_OFF: a frame whose action field is ACTION_OFF -/
  | txOff (address code : BitSequence)
  /-- SYM0: the pulse symbol of a 0 bit (40 R131, 30 R91) -/
  | sym0
  /-- SYM1: the pulse symbol of a 1 bit -/
  | sym1
  /-- TRANSMIT_BITS, an internal micro-operation (40 R133) -/
  | transmitBits (seq : BitSequence)
  /-- BUILD, an internal micro-operation (41 R155) -/
  | build (address unit : Int) (action : Action)
  deriving DecidableEq, Repr

/-- What a caller presents at a command port: the 8-bit `cmd_op` and the operand fields beside it
(30_encoding R119). A command samples the fields it has; the others carry nothing. -/
structure PortWord where
  op : BitVec 8
  pin : Int := 0
  retries : Int := 0
  address : Int := 0
  unit : Int := 0
  action : Bit := false
  value : Bit := false
  name : NameBytes := []
  deriving DecidableEq, Repr

/-- The encoded form of an instruction, by the space of its opcode-table row. -/
inductive Image where
  /-- space command_port -/
  | port (w : PortWord)
  /-- space serial_wire: the bytes of one command -/
  | wire (bytes : List Byte)
  /-- space radio_frame: the bits in sending order -/
  | frame (bits : BitSequence)
  /-- space pulse_symbol: the bit a symbol carries -/
  | symbol (b : Bit)
  /-- space internal, TRANSMIT_BITS: no encoding, the operand stands for itself (log 5) -/
  | bits (seq : BitSequence)
  /-- space internal, BUILD: no encoding, the operands stand for themselves (log 5) -/
  | buildRequest (address unit : Int) (action : Action)
  deriving DecidableEq, Repr

/-- Why an image is no instruction. -/
inductive DecodeError where
  /-- `cmd_op` is none of the port's commands: unlisted (30_encoding R114, 93 U1), or a listed one of the other block
  (log 29: DESIGN CHOICE) -/
  | illegalOpcode (op : BitVec 8)
  /-- the `name` operand is not NAME_LEN bytes long: such a value cannot be presented (20_memory R70) -/
  | nameLength (len : Nat)
  /-- no byte at all -/
  | emptyStream
  /-- the first byte begins no command SLP sends (30_encoding R109) -/
  | notACommandByte (b : Byte)
  /-- 0x23 with fewer than NAME_LEN bytes after it (30_encoding R93) -/
  | shortName
  /-- bytes after the end of the one command an image holds (30_encoding R93) -/
  | trailingBytes
  /-- a frame is exactly FRAME_BITS long (20_memory R70) -/
  | frameLength
  /-- the end field of a frame is END_MARK (30_encoding R110) -/
  | frameEnd
  /-- the action field is neither ACTION_ON nor ACTION_OFF (30_encoding R110) -/
  | frameAction
  deriving DecidableEq, Repr

/-- The pseudo-instruction `RTX.OPEN pin` with the second operand omitted (30_encoding R117). -/
def Instr.rtxOpenDefault (cfg : Config) (pin : Int) : Instr := .rtxOpen pin cfg.defaultRetries

/-- `ALL` written for the operand pair of TRANSMIT (30_encoding R117). -/
def Instr.rtxTransmitAllPair (cfg : Config) (action : Action) : Instr :=
  .rtxTransmit cfg.allAddress cfg.allUnit action

end Sys2Proof
end

