-- ==== Sys2Proof/WellFormed.lean ====
section
/-! DEFINITION. WellFormed: which terms of Instr the encodings of the opcode table admit. -/

namespace Sys2Proof

/-- A digital pin of the wire images `C`..`N`, `c`..`n` (30_encoding R102, R109). -/
def wireDigitalPin (cfg : Config) (pin : Nat) : Bool := cfg.dpinMin ≤ pin && pin ≤ cfg.dpinMax

/-- An analog pin of the wire images `0`..`7` (30_encoding R103). -/
def wireAnalogPin (cfg : Config) (pin : Nat) : Bool := cfg.apinMin ≤ pin && pin ≤ cfg.apinMax

/-- A stored name is exactly NAME_LEN bytes (20_memory R70). -/
def nameFits (cfg : Config) (name : NameBytes) : Bool := name.length = cfg.nameLen

/-- A code that is the code of some unit (30_encoding R110). -/
def codeInTable (cfg : Config) (code : BitSequence) : Bool := cfg.unitCode.toList.contains code

/-- The fields of a frame RTX can send: every ADDR_BITS pattern is an address, the code is a unit's (30_encoding R110). -/
def frameFieldsFit (cfg : Config) (address code : BitSequence) : Bool :=
  address.length = cfg.addrBits && codeInTable cfg code

/-- Well-formedness of an instruction under the constants `cfg`. Commands take any integers: their operands are
validated when they run (60_exceptions R311). -/
def Instr.wf (cfg : Config) : Instr → Bool
  | .rtxOpen _ _ => true
  | .rtxTransmit _ _ _ => true
  | .rtxTransmitAll _ => true
  | .rtxClose => true
  | .slpConnect => true
  | .slpGetVersion => true
  | .slpGetVersionNumber => true
  | .slpSetDigital _ _ => true
  | .slpReadDigital => true
  | .slpReadAnalog _ => true
  | .slpGetName => true
  | .slpStoreName name => nameFits cfg name
  | .slpSavePowerOn => true
  | .slpReadPowerOn => true
  | .slpClose => true
  | .wQueryVersion => true
  | .wReadDigital => true
  | .wSetHigh pin => wireDigitalPin cfg pin
  | .wSetLow pin => wireDigitalPin cfg pin
  | .wReadAnalog pin => wireAnalogPin cfg pin
  | .wSavePowerOn => true
  | .wReadPowerOn => true
  | .wReadName => true
  | .wStoreName name => nameFits cfg name
  | .txOn address code => frameFieldsFit cfg address code
  | .txOff address code => frameFieldsFit cfg address code
  | .sym0 => true
  | .sym1 => true
  | .transmitBits _ => true
  | .build _ _ _ => true

/-- The block whose command port takes the instruction; none for wire images and micro-operations
(30_encoding R119). -/
def Instr.portBlock : Instr → Option Block
  | .rtxOpen _ _ => some .rtx
  | .rtxTransmit _ _ _ => some .rtx
  | .rtxTransmitAll _ => some .rtx
  | .rtxClose => some .rtx
  | .slpConnect => some .slp
  | .slpGetVersion => some .slp
  | .slpGetVersionNumber => some .slp
  | .slpSetDigital _ _ => some .slp
  | .slpReadDigital => some .slp
  | .slpReadAnalog _ => some .slp
  | .slpGetName => some .slp
  | .slpStoreName _ => some .slp
  | .slpSavePowerOn => some .slp
  | .slpReadPowerOn => some .slp
  | .slpClose => some .slp
  | .wQueryVersion => none
  | .wReadDigital => none
  | .wSetHigh _ => none
  | .wSetLow _ => none
  | .wReadAnalog _ => none
  | .wSavePowerOn => none
  | .wReadPowerOn => none
  | .wReadName => none
  | .wStoreName _ => none
  | .txOn _ _ => none
  | .txOff _ _ => none
  | .sym0 => none
  | .sym1 => none
  | .transmitBits _ => none
  | .build _ _ _ => none

/-- The instructions SLP runs: its commands and their wire images; RTX runs the others (30_encoding R108, R118). -/
def Instr.onSlp : Instr → Bool
  | .rtxOpen _ _ => false
  | .rtxTransmit _ _ _ => false
  | .rtxTransmitAll _ => false
  | .rtxClose => false
  | .txOn _ _ => false
  | .txOff _ _ => false
  | .sym0 => false
  | .sym1 => false
  | .transmitBits _ => false
  | .build _ _ _ => false
  | .slpConnect => true
  | .slpGetVersion => true
  | .slpGetVersionNumber => true
  | .slpSetDigital _ _ => true
  | .slpReadDigital => true
  | .slpReadAnalog _ => true
  | .slpGetName => true
  | .slpStoreName _ => true
  | .slpSavePowerOn => true
  | .slpReadPowerOn => true
  | .slpClose => true
  | .wQueryVersion => true
  | .wReadDigital => true
  | .wSetHigh _ => true
  | .wSetLow _ => true
  | .wReadAnalog _ => true
  | .wSavePowerOn => true
  | .wReadPowerOn => true
  | .wReadName => true
  | .wStoreName _ => true

end Sys2Proof
end

