-- ==== Sys2Proof/Decode.lean ====
section
/-! DEFINITION. Decode: from images to instructions, total, rejecting by name; and the encoder. -/

namespace Sys2Proof

/-- The `n` low binary digits of a number, most significant first (00_scope R7, R9 `bits8_msb`). -/
def bitsMsb (n v : Nat) : BitSequence := (List.range n).map fun i => v.testBit (n - 1 - i)

/-- The number a bit sequence is read as, element 0 most significant (00_scope R7). -/
def numberOfBits (bs : BitSequence) : Nat := bs.foldl (fun a b => 2 * a + b.toNat) 0

/-- 1 = On, 0 = Off at the command port (30_encoding R119). -/
def actionOfBit (b : Bit) : Action := if b then .on else .off

/-- The `action` field of a command-port word (30_encoding R119). -/
def bitOfAction : Action → Bit
  | .on => true
  | .off => false

/-- The action field (30_encoding R104). -/
def actionField (cfg : Config) : Action → BitSequence
  | .on => cfg.actionOn
  | .off => cfg.actionOff

/-- The code of a digital pin's HIGH byte: `0x41 + pin` (30_encoding R102). -/
def setHighByte (pin : Nat) : Byte := BitVec.ofNat 8 (0x41 + pin)

/-- The code of a digital pin's LOW byte: `0x61 + pin` (30_encoding R102). -/
def setLowByte (pin : Nat) : Byte := BitVec.ofNat 8 (0x61 + pin)

/-- The code of an analog pin's read byte: `0x30 + pin` (30_encoding R103). -/
def readAnalogByte (pin : Nat) : Byte := BitVec.ofNat 8 (0x30 + pin)

/-- The command a command-port word names (30_encoding R119); its name operand is NAME_LEN bytes (20_memory R70). -/
def decodePort (cfg : Config) (w : PortWord) : Except DecodeError Instr :=
  match w.op.toNat with
  | 0x10 => .ok (.rtxOpen w.pin w.retries)
  | 0x11 => .ok (.rtxTransmit w.address w.unit (actionOfBit w.action))
  | 0x12 => .ok (.rtxTransmitAll (actionOfBit w.action))
  | 0x13 => .ok .rtxClose
  | 0x20 => .ok .slpConnect
  | 0x21 => .ok .slpGetVersion
  | 0x22 => .ok .slpGetVersionNumber
  | 0x23 => .ok (.slpSetDigital w.pin w.value)
  | 0x24 => .ok .slpReadDigital
  | 0x25 => .ok (.slpReadAnalog w.pin)
  | 0x26 => .ok .slpGetName
  | 0x27 => if w.name.length = cfg.nameLen then .ok (.slpStoreName w.name) else .error (.nameLength w.name.length)
  | 0x28 => .ok .slpSavePowerOn
  | 0x29 => .ok .slpReadPowerOn
  | 0x2A => .ok .slpClose
  | _ => .error (.illegalOpcode w.op)

/-- The high nibble of `cmd_op` selects the block, 1 for RTX and 2 for SLP (30_encoding R119). -/
def opBlock (op : BitVec 8) : Option Block :=
  match op.toNat / 16 with
  | 1 => some .rtx
  | 2 => some .slp
  | _ => none

/-- A word at the port of block `b`. An unlisted `cmd_op` names no command (30_encoding R114). That a listed `cmd_op` of
the other block names none at this port either is the model's choice (DESIGN CHOICE, log 29: R119 says that the nibble
selects the block, and no rule says what a port does with the other block's). -/
def decodePortOf (cfg : Config) (b : Block) (w : PortWord) : Except DecodeError Instr :=
  if opBlock w.op = some b then decodePort cfg w else .error (.illegalOpcode w.op)

/-- The payload bytes of a name store, `len` of them, and the bytes after them (30_encoding R93). -/
def takeName (len : Nat) (bs : List Byte) : Option (NameBytes × List Byte) :=
  if len ≤ bs.length then some (bs.take len, bs.drop len) else none

/-- The command at the front of a byte stream, and the rest of the stream: the first byte alone identifies the
command and its length (30_encoding R109, R115). -/
def decodeWire (cfg : Config) : List Byte → Except DecodeError (Instr × List Byte)
  | [] => .error .emptyStream
  | b :: rest =>
    let n := b.toNat
    if n = 0x23 then
      match takeName cfg.nameLen rest with
      | some (name, rest') => .ok (.wStoreName name, rest')
      | none => .error .shortName
    else if n = 0x2B then .ok (.wSavePowerOn, rest)
    else if n = 0x2D then .ok (.wReadPowerOn, rest)
    else if 0x30 + cfg.apinMin ≤ n ∧ n ≤ 0x30 + cfg.apinMax then .ok (.wReadAnalog (n - 0x30), rest)
    else if n = 0x3D then .ok (.wReadName, rest)
    else if n = 0x3F then .ok (.wReadDigital, rest)
    else if 0x41 + cfg.dpinMin ≤ n ∧ n ≤ 0x41 + cfg.dpinMax then .ok (.wSetHigh (n - 0x41), rest)
    else if n = 0x60 then .ok (.wQueryVersion, rest)
    else if 0x61 + cfg.dpinMin ≤ n ∧ n ≤ 0x61 + cfg.dpinMax then .ok (.wSetLow (n - 0x61), rest)
    else .error (.notACommandByte b)

/-- A byte stream as the list of its commands, with fuel for the recursion. -/
def decodeStreamFuel (cfg : Config) : Nat → List Byte → Except DecodeError (List Instr)
  | _, [] => .ok []
  | 0, _ :: _ => .error .trailingBytes
  | fuel + 1, b :: bs =>
    match decodeWire cfg (b :: bs) with
    | .error e => .error e
    | .ok (i, rest) =>
      match decodeStreamFuel cfg fuel rest with
      | .error e => .error e
      | .ok is => .ok (i :: is)

/-- A whole byte stream, split into commands from its start (30_encoding R109: prefix-free). Each command takes
at least one byte, so the stream's length is fuel enough. -/
def decodeStream (cfg : Config) (bs : List Byte) : Except DecodeError (List Instr) :=
  decodeStreamFuel cfg bs.length bs

/-- A frame (30_encoding R92, R110): the fields, without asking whether the code is in UNIT_CODE. -/
def decodeFrame (cfg : Config) (bits : BitSequence) : Except DecodeError Instr :=
  let address := bits.take cfg.addrBits
  let code := (bits.drop cfg.addrBits).take cfg.unitBits
  let action := (bits.drop (cfg.addrBits + cfg.unitBits)).take cfg.actionBits
  if bits.length ≠ cfg.frameBits then .error .frameLength
  else if bits.drop (cfg.addrBits + cfg.unitBits + cfg.actionBits) ≠ cfg.endMark then .error .frameEnd
  else if action = cfg.actionOn then .ok (.txOn address code)
  else if action = cfg.actionOff then .ok (.txOff address code)
  else .error .frameAction

/-- The decoder: the instruction an image is, or the reason it is none. -/
def decode (cfg : Config) : Image → Except DecodeError Instr
  | .port w => decodePort cfg w
  | .wire bytes =>
    match decodeWire cfg bytes with
    | .error e => .error e
    | .ok (i, []) => .ok i
    | .ok (_, _ :: _) => .error .trailingBytes
  | .frame bits => decodeFrame cfg bits
  | .symbol b => .ok (if b then .sym1 else .sym0)
  | .bits seq => .ok (.transmitBits seq)
  | .buildRequest address unit action => .ok (.build address unit action)

/-- The bits of a frame in sending order: address, unit code, action, end (30_encoding R92). -/
def frameOf (cfg : Config) (address code : BitSequence) (action : Action) : BitSequence :=
  address ++ code ++ actionField cfg action ++ cfg.endMark

/-- The encoder (30_encoding R91 to R93, R102, R103, R119). Operand fields a command does not have are zero. -/
def encode (cfg : Config) : Instr → Image
  | .rtxOpen pin retries => .port { op := 0x10, pin := pin, retries := retries }
  | .rtxTransmit address unit action =>
    .port { op := 0x11, address := address, unit := unit, action := bitOfAction action }
  | .rtxTransmitAll action => .port { op := 0x12, action := bitOfAction action }
  | .rtxClose => .port { op := 0x13 }
  | .slpConnect => .port { op := 0x20 }
  | .slpGetVersion => .port { op := 0x21 }
  | .slpGetVersionNumber => .port { op := 0x22 }
  | .slpSetDigital pin value => .port { op := 0x23, pin := pin, value := value }
  | .slpReadDigital => .port { op := 0x24 }
  | .slpReadAnalog pin => .port { op := 0x25, pin := pin }
  | .slpGetName => .port { op := 0x26 }
  | .slpStoreName name => .port { op := 0x27, name := name }
  | .slpSavePowerOn => .port { op := 0x28 }
  | .slpReadPowerOn => .port { op := 0x29 }
  | .slpClose => .port { op := 0x2A }
  | .wQueryVersion => .wire [0x60]
  | .wReadDigital => .wire [0x3F]
  | .wSetHigh pin => .wire [setHighByte pin]
  | .wSetLow pin => .wire [setLowByte pin]
  | .wReadAnalog pin => .wire [readAnalogByte pin]
  | .wSavePowerOn => .wire [0x2B]
  | .wReadPowerOn => .wire [0x2D]
  | .wReadName => .wire [0x3D]
  | .wStoreName name => .wire (0x23 :: name)
  | .txOn address code => .frame (frameOf cfg address code .on)
  | .txOff address code => .frame (frameOf cfg address code .off)
  | .sym0 => .symbol false
  | .sym1 => .symbol true
  | .transmitBits seq => .bits seq
  | .build address unit action => .buildRequest address unit action

/-- The bytes an instruction puts on the serial wire as its image; none for the other spaces. -/
def wireBytes (cfg : Config) (i : Instr) : Option (List Byte) :=
  match encode cfg i with
  | .wire bytes => some bytes
  | .port _ => none
  | .frame _ => none
  | .symbol _ => none
  | .bits _ => none
  | .buildRequest _ _ _ => none

/-- Byte `i` of a word whose least significant byte comes first, as the numbers of the name store are read (DESIGN CHOICE,
log 24). -/
def byteOfWord (w i : Nat) : Byte := BitVec.ofNat 8 (w / 256 ^ i)

/-- A port word of an 8-bit table word: every operand zero, a name of NAME_LEN zeros (log 9). -/
def tablePortWord (cfg : Config) (op : BitVec 8) : PortWord := { op := op, name := List.replicate cfg.nameLen 0 }

/-- An 8-bit word of the table. That its value says its space is the model's choice (DESIGN CHOICE, log 24): the values of
the three one-byte spaces are disjoint (30_encoding R109, R118, R119), but for 0x23, which as one byte is the `cmd_op`
and with its name the name store. -/
def tableByte (cfg : Config) (b : Byte) : Image :=
  if b = 0 then .symbol false
  else if b = 1 then .symbol true
  else if (opBlock b).isSome && (decodePort cfg (tablePortWord cfg b)).toBool then .port (tablePortWord cfg b)
  else .wire [b]

/-- The image of an opcode-table word of `nbits` bits (spec/opcode_table.json): a frame (its bits, or these in whole
bytes, the upper ones 0), the name store, one-bit symbols, and the 8-bit rows (DESIGN CHOICE, log 24). The table fixes the
name store's bits 7..0 to 0x23; that the name's bytes stand above it in sending order, `name[0]` in bits 15..8, is the
model's choice too (log 24). -/
def tableImage (cfg : Config) (nbits w : Nat) : Option Image :=
  if nbits = 1 ∧ w < 2 then some (.symbol (decide (w = 1)))
  else if nbits = 8 ∧ w < 256 then some (tableByte cfg (BitVec.ofNat 8 w))
  else if (nbits = cfg.frameBits ∨ nbits = 8 * ((cfg.frameBits + 7) / 8)) ∧ w < 2 ^ cfg.frameBits then
    some (.frame (bitsMsb cfg.frameBits w))
  else if nbits = 8 * (cfg.nameLen + 1) ∧ w < 2 ^ nbits then
    some (.wire ((List.range (cfg.nameLen + 1)).map (byteOfWord w)))
  else none

/-- The instruction the decoder of the machine reads from a word of the opcode table. -/
def decodeTableWord (nbits w : Nat) : Option Instr :=
  match tableImage Config.platform nbits w with
  | none => none
  | some im =>
    match decode Config.platform im with
    | .ok i => some i
    | .error _ => none

end Sys2Proof
end

