-- ==== Sys2Proof/Machine/State.lean ====
section
/-! DEFINITION. State: everything the spec gives the two blocks, as plain data, and the state after reset.

An element the spec marks "holds no value" in some lifecycle states (10_state R20, R30, R36) is carried by the
lifecycle state that has it, so that no read of it can happen elsewhere (log 4: DEDUCED, safe). -/

namespace Sys2Proof.Machine

/-- The status codes (60_exceptions R290). -/
inductive Status where
  | ok
  | invalidPin
  | invalidAddress
  | invalidUnit
  | invalidRetryCount
  | closed
  | inactive
  | unsupportedVersion
  | nameMismatch
  | ioTimeout
  | ioFailure
  | invalidFirmware
  | malformedResponse
  deriving DecidableEq, Repr

/-- A PinState (44 R234): a partial mapping from pins to values, its keys strictly rising, so that equal mappings are
equal data (insertion order is irrelevant). -/
structure PinState where
  cells : List (Nat × Bit)
  deriving DecidableEq, Repr

/-- The typed result of a command (30_encoding R119); `frame` is BUILD's (41 R155). -/
inductive Result where
  | none
  | bytes (bs : List Byte)
  | number (n : Nat)
  | pins (m : PinState)
  | frame (f : BitSequence)
  deriving DecidableEq, Repr

/-- The response port: `rsp_valid` is that there is one (10_state R35). -/
structure Response where
  status : Status
  result : Result
  deriving DecidableEq, Repr

/-- Events of `tx_trace` (00_scope R9). -/
inductive RtxEvent where
  | bind (pin : Int)
  | drive (level : Level)
  | wait (micros : Nat)
  | release (pin : Int)
  deriving DecidableEq, Repr

/-- What SerReadLine returns (20_memory R73): the content of a line, Timeout or Fail. -/
inductive ReadResult where
  | line (content : List Byte)
  | timeout
  | fail
  deriving DecidableEq, Repr

/-- Events of `sl_trace` (00_scope R9): Open, Wait, Tx, Flush, Rx, Close. -/
inductive SlpEvent where
  | opened
  | wait (micros : Nat)
  | tx (b : Byte)
  | flush
  | rx (r : ReadResult)
  | closed
  deriving DecidableEq, Repr

/-- `tx_pin`, `tx_retries` and `line`, which hold a value while `tx_state = Open` (10_state R20, 42 R184). -/
structure Binding where
  /-- `tx_pin` -/
  pin : Int
  /-- `tx_retries` -/
  retries : Nat
  /-- `line` -/
  line : Level
  deriving DecidableEq, Repr

/-- `tx_state` (10_state R20). -/
inductive TxState where
  | unbound
  | opened (b : Binding)
  | closed
  deriving DecidableEq, Repr

/-- `phase` of the sequencer (10_state R21). -/
inductive Phase where
  | high
  | low
  | settle
  deriving DecidableEq, Repr

/-- The sequencer position of RTX (10_state R21) and the down-counter of 70 R357, in microseconds. -/
structure Position where
  outerIdx : Nat
  repIdx : Nat
  bitIdx : Nat
  phase : Phase
  frameSr : BitSequence
  timer : Nat
  deriving DecidableEq, Repr

/-- Block RTX (10_state R20, R21, R34, R35). -/
structure Rtx where
  /-- `tx_state`, with `tx_pin`, `tx_retries`, `line` -/
  txState : TxState
  /-- `tx_trace`, oldest event first -/
  txTrace : List RtxEvent
  /-- the sequencer position, if a command is in the middle of its run -/
  pos : Option Position
  /-- the command port: `cmd_valid` is that a word is presented -/
  cmd : Option PortWord
  /-- the operand latches; they hold a value while a command runs -/
  latch : Option PortWord
  /-- the response port -/
  rsp : Option Response
  /-- the reset input (70 R340) -/
  rst : Bool
  deriving DecidableEq, Repr

/-- `ver_str`, `ver_num` and `codename`, which hold a value while `sc_state = Active` (10_state R30). -/
structure Firmware where
  verStr : List Byte
  verNum : Nat
  codename : List Byte
  deriving DecidableEq, Repr

/-- `sc_state` (10_state R30). -/
inductive ScState where
  | connecting
  | active (fw : Firmware)
  | inactive
  deriving DecidableEq, Repr

/-- The outside's answers to SLP's transport accesses (20_memory R73, 93 U7): those given, in order, and how many
free answers were taken after the given ones ran out (log 2: DESIGN CHOICE, safe). -/
structure Link where
  io : List IoAnswer
  reads : List ReadAnswer
  ioUsed : Nat
  readUsed : Nat
  deriving DecidableEq, Repr

/-- Block SLP (10_state R30, R34, R35). -/
structure Slp where
  /-- `sc_state`, with `ver_str`, `ver_num`, `codename` -/
  scState : ScState
  /-- `port_open` -/
  portOpen : Bool
  /-- `sl_trace`, oldest event first -/
  slTrace : List SlpEvent
  /-- the transport's answers -/
  link : Link
  /-- the command port -/
  cmd : Option PortWord
  /-- the operand latches -/
  latch : Option PortWord
  /-- the response port -/
  rsp : Option Response
  /-- the reset input (70 R340) -/
  rst : Bool
  deriving DecidableEq, Repr

/-- The machine: the constant store (10_state R22), the two blocks, and two inputs of the model's own: an image
presented by itself (log 5) and which block moves first when both can (log 10). -/
structure State where
  cfg : Config
  rtx : Rtx
  slp : Slp
  image : Option Image
  turn : Block
  deriving DecidableEq, Repr

/-- Why the machine stops with a fault. -/
inductive Fault where
  /-- A radio pin access fails (60_exceptions R304). Nothing raises it: the spec makes the pin primitives total and
  puts such a run outside the model (93 U6; log 15: unsafe). -/
  | pinAccess
  deriving DecidableEq, Repr

/-- Why a step has no meaning. -/
inductive Refusal where
  /-- An instruction without a meaning, by its mnemonic; `exec` alone would raise it. Safe. -/
  | notModelled (mnemonic : String)
  /-- RTX.OPEN while `tx_state = Open` (42 R170, 93 U3); raised by `execRtxOpen`. Safe. -/
  | openWhileOpen
  /-- SLP.CONNECT, or its wire image, while `sc_state = Active` (43 R200, 93 U4); raised by `execSlpConnect` and
  `execWQueryVersion`. Safe. -/
  | connectWhileActive
  /-- What a port or the image slot presents is no instruction (30_encoding R114, 93 U1; for a listed `cmd_op` at the other
  block's port, log 29); raised by `step`. Safe. -/
  | notAnInstruction (why : DecodeError)
  deriving DecidableEq, Repr

/-- What one step of this machine answers. -/
abbrev Out := Host.Outcome State Fault Refusal

/-- RTX after reset (10_state R36, 70 R341). -/
def Rtx.reset : Rtx where
  txState := .unbound
  txTrace := []
  pos := none
  cmd := none
  latch := none
  rsp := none
  rst := false

/-- No answer given, none taken (log 2: DESIGN CHOICE). -/
def Link.reset : Link where
  io := []
  reads := []
  ioUsed := 0
  readUsed := 0

/-- SLP after reset (10_state R36, 70 R341). -/
def Slp.reset : Slp where
  scState := .connecting
  portOpen := false
  slTrace := []
  link := Link.reset
  cmd := none
  latch := none
  rsp := none
  rst := false

/-- The machine right after reset (10_state R36, 70 R341). The inputs are the model's choice (log 20). -/
def State.reset : State where
  cfg := Config.platform
  rtx := Rtx.reset
  slp := Slp.reset
  image := none
  turn := .rtx

end Sys2Proof.Machine
end

