-- ==== Sys2Proof/Machine/Operands.lean ====
section
/-! DEFINITION. Operands: every operand check, field function and reader of a response line. -/

namespace Sys2Proof.Machine

/-- HIGH time of a bit (40 R130). -/
def high (cfg : Config) (b : Bit) : Nat := if b then cfg.tHigh1 else cfg.tHigh0

/-- LOW time of a bit (40 R130). -/
def low (cfg : Config) (b : Bit) : Nat := cfg.tBit - high cfg b

/-- `addr_field(a)` of a valid address: its binary digits (41 R150, R151). -/
def addrField (cfg : Config) (a : Int) : BitSequence := bitsMsb cfg.addrBits a.toNat

/-- `address` fits the address field: 0..255 for the documented 8 bits (20_memory R60, 30_encoding R101). -/
def addressValid (cfg : Config) (a : Int) : Bool := 0 ≤ a && a < 2 ^ cfg.addrBits

/-- `unit_field(u)`: the entry of UNIT_CODE, for u in 1..5 only (41 R150, 30 R105). -/
def unitField (cfg : Config) (u : Int) : Option BitSequence :=
  if 1 ≤ u ∧ u ≤ 5 then cfg.unitCode[(u - 1).toNat]? else none

/-- SET_DIGITAL's pins, 2..13 (44 R231). -/
def digitalPinValid (cfg : Config) (pin : Int) : Bool := cfg.dpinMin ≤ pin && pin ≤ cfg.dpinMax

/-- READ_ANALOG's pins, 0..7 (44 R236). -/
def analogPinValid (cfg : Config) (pin : Int) : Bool := cfg.apinMin ≤ pin && pin ≤ cfg.apinMax

/-- The command byte of SET_DIGITAL for a valid pin (44 R231, 30 R102). -/
def setDigitalByte (pin : Int) (value : Bit) : Byte :=
  if value then setHighByte pin.toNat else setLowByte pin.toNat

/-- A decimal digit character (30_encoding R100). -/
def isDigit (b : Byte) : Bool := 0x30 ≤ b.toNat && b.toNat ≤ 0x39

/-- The value of a digit run as a decimal numeral (30_encoding R106, R107). -/
def decimalValue (bs : List Byte) : Nat := bs.foldl (fun v b => 10 * v + (b.toNat - 0x30)) 0

/-- The content of a line (20_memory R73): the bytes before the first line feed, less one carriage return at the
end if present. -/
def lineContent (raw : List Byte) : List Byte :=
  let c := raw.takeWhile (· ≠ 0x0A)
  if c.getLast? = some 0x0D then c.dropLast else c

/-- What SerReadLine returns for what the transport has (20_memory R73). -/
def readResult : ReadAnswer → ReadResult
  | .line raw => .line (lineContent raw)
  | .timeout => .timeout
  | .fail => .fail

/-- `ParseVersion` (43 R204): the version number and the code name of a handshake line. -/
def parseVersion : List Byte → Option (Nat × List Byte)
  | [] => none
  | b :: rest =>
    if b ≠ 0x56 then none
    else
      let digits := rest.takeWhile isDigit
      if digits = [] then none
      else
        match rest.dropWhile isDigit with
        | [] => none
        | c :: cn => if c = 0x5F then some (decimalValue digits, cn) else none

/-- `ParseInt` (44 R237). -/
def parseInt (bs : List Byte) : Option Nat :=
  if bs = [] then none else if bs.all isDigit then some (decimalValue bs) else none

/-- The empty mapping (44 R234). -/
def PinState.empty : PinState := ⟨[]⟩

/-- A pin's entry put into a list of entries at its place, instead of the pin's old one. -/
def putCell (pin : Nat) (v : Bit) : List (Nat × Bit) → List (Nat × Bit)
  | [] => [(pin, v)]
  | (p, w) :: rest =>
    if pin < p then (pin, v) :: (p, w) :: rest
    else if pin = p then (pin, v) :: rest
    else (p, w) :: putCell pin v rest

/-- Assigning the value of a pin (44 R234). -/
def PinState.put (m : PinState) (pin : Nat) (v : Bit) : PinState := ⟨putCell pin v m.cells⟩

/-- The value of a pin, if the pin is a key of the mapping. -/
def PinState.get (m : PinState) (pin : Nat) : Option Bit := m.cells.lookup pin

/-- The canonical form: the keys strictly rising. -/
abbrev PinState.wf (m : PinState) : Prop := m.cells.Pairwise (·.1 < ·.1)

/-- One byte of a pin-state line: a state letter assigns, every other byte carries nothing (44 R234, 30 R95, R113). -/
def PinState.letter (cfg : Config) (m : PinState) (ch : Byte) : PinState :=
  let n := ch.toNat
  if 0x61 + cfg.dpinMin ≤ n ∧ n ≤ 0x61 + cfg.dpinMax then m.put (n - 0x61) false
  else if 0x41 + cfg.dpinMin ≤ n ∧ n ≤ 0x41 + cfg.dpinMax then m.put (n - 0x41) true
  else m

/-- `DecodePinState` (44 R234). -/
def decodePinState (cfg : Config) (bs : List Byte) : PinState := bs.foldl (PinState.letter cfg) PinState.empty

/-- The remote digital pins in ascending order (20_memory R63). -/
def digitalPins (cfg : Config) : List Nat := List.range' cfg.dpinMin (cfg.dpinMax + 1 - cfg.dpinMin)

/-- The line of a mapping with every digital pin as a key: one letter a pin, in ascending pin order (44 R235 b). -/
def pinLine (cfg : Config) (value : Nat → Bit) : List Byte :=
  (digitalPins cfg).map fun pin => if value pin then setHighByte pin else setLowByte pin

/-- `present[13:2]` of the response port, in ascending pin order (30_encoding R119). -/
def PinState.presentBits (cfg : Config) (m : PinState) : List Bit := (digitalPins cfg).map fun pin => (m.get pin).isSome

/-- `val[13:2]` of the response port, in ascending pin order: meaningful only where `present` is 1; elsewhere it is
whatever `filler` holds (30_encoding R119; log 23). -/
def PinState.valBits (cfg : Config) (m : PinState) (filler : Nat → Bit) : List Bit :=
  (digitalPins cfg).map fun pin => (m.get pin).getD (filler pin)

end Sys2Proof.Machine
end

