-- ==== Sys2Proof/Machine/Flags.lean ====
section
/-! DEFINITION. Flags: this hardware has no flags or condition codes (10_state R34); what a command computes about
its own run is one status (60_exceptions R290), classified here. -/

namespace Sys2Proof.Machine

/-- The numeric code of a status (60_exceptions R290). -/
def Status.code : Status → Nat
  | .ok => 0
  | .invalidPin => 1
  | .invalidAddress => 2
  | .invalidUnit => 3
  | .invalidRetryCount => 4
  | .closed => 5
  | .inactive => 6
  | .unsupportedVersion => 7
  | .nameMismatch => 8
  | .ioTimeout => 9
  | .ioFailure => 10
  | .invalidFirmware => 11
  | .malformedResponse => 12

/-- The kinds of 60_exceptions R290. -/
inductive StatusKind where
  | success
  | validation
  | resourceState
  | version
  | writeVerify
  | transport
  | handshake
  | responseParse
  deriving DecidableEq, Repr

/-- The kind of a status (60_exceptions R290). -/
def Status.kind : Status → StatusKind
  | .ok => .success
  | .invalidPin => .validation
  | .invalidAddress => .validation
  | .invalidUnit => .validation
  | .invalidRetryCount => .validation
  | .closed => .resourceState
  | .inactive => .resourceState
  | .unsupportedVersion => .version
  | .nameMismatch => .writeVerify
  | .ioTimeout => .transport
  | .ioFailure => .transport
  | .invalidFirmware => .handshake
  | .malformedResponse => .responseParse

end Sys2Proof.Machine
end

