-- ==== Sys2Proof/Machine/Ops.lean ====
section
/-! DEFINITION. Ops: the primitives of 00_scope R9, the helpers of 43 R209 to R211, and the two ways a command ends:
`raise` and `return` (60_exceptions R316). -/

namespace Sys2Proof.Machine

/-- A command's run over its block: it is done with a value, or it ended early with an error status. -/
inductive Run (σ α : Type) where
  | done (a : α) (s : σ)
  | raised (e : Status) (s : σ)
  deriving DecidableEq, Repr

/-- Sequencing: nothing after a `raise` runs (00_scope R9). -/
def Run.andThen {σ α β : Type} (m : Run σ α) (k : α → σ → Run σ β) : Run σ β :=
  match m with
  | .done a s => k a s
  | .raised e s => .raised e s

/-- `raise E` (60_exceptions R316): the command ends at once; nothing is saved and control goes nowhere. -/
def raise {σ α : Type} (e : Status) (s : σ) : Run σ α := .raised e s

/-- `f` run `n` times, stopping at the first error (the loops of 42 R176, R180). -/
def repeatRun {σ : Type} : Nat → (σ → Run σ Unit) → σ → Run σ Unit
  | 0, _, s => .done () s
  | n + 1, f, s => (f s).andThen fun _ s' => repeatRun n f s'

/-! ### RTX -/

/-- `line_oe` is 1 exactly while `tx_state = Open` (10_state R35). -/
def Rtx.lineOe (r : Rtx) : Bool :=
  match r.txState with
  | .unbound => false
  | .opened _ => true
  | .closed => false

/-- `line`, where it holds a value (10_state R20). -/
def Rtx.line (r : Rtx) : Option Level :=
  match r.txState with
  | .unbound => none
  | .opened b => some b.line
  | .closed => none

/-- `cmd_ready` is high exactly when no command is running (10_state R35). -/
def Rtx.cmdReady (r : Rtx) : Bool := r.latch.isNone && r.pos.isNone

/-- Writing `line`, which holds a value only while Open (10_state R20). -/
def TxState.setLine (l : Level) : TxState → TxState
  | .unbound => .unbound
  | .opened b => .opened { b with line := l }
  | .closed => .closed

/-- Appending events to `tx_trace` in program order (20_memory R75). -/
def Rtx.emit (es : List RtxEvent) (r : Rtx) : Rtx := { r with txTrace := r.txTrace ++ es }

/-- `PinBind(p)` (00_scope R9); total (60 R304). -/
def Rtx.pinBind (p : Int) (r : Rtx) : Rtx := r.emit [.bind p]

/-- `PinDrive(l)`, also `line <- l` (00_scope R9); total (60 R304). -/
def Rtx.pinDrive (l : Level) (r : Rtx) : Rtx := { r.emit [.drive l] with txState := r.txState.setLine l }

/-- `PinRelease(p)` (00_scope R9); total (60 R304). -/
def Rtx.pinRelease (p : Int) (r : Rtx) : Rtx := r.emit [.release p]

/-- `Wait(d)` (00_scope R9). -/
def Rtx.wait (d : Nat) (r : Rtx) : Rtx := r.emit [.wait d]

/-- The response of a command: the operand latches and the sequencer position hold no value afterwards
(10_state R21, R34, R35). -/
def Rtx.respond (st : Status) (res : Result) (r : Rtx) : Rtx :=
  { r with rsp := some ⟨st, res⟩, latch := none, pos := none }

/-- How an RTX command ends: `return v` shows OK and the result, `raise E` shows E and no result. -/
def Rtx.finish : Run Rtx Result → Rtx
  | .done v r => r.respond .ok v
  | .raised e r => r.respond e .none

/-! ### SLP -/

/-- `cmd_ready` of SLP (10_state R35). -/
def Slp.cmdReady (t : Slp) : Bool := t.latch.isNone

/-- The next answer of an open, write or flush (93 U7): the first given one, or a free one (log 2). -/
def Link.nextIo (l : Link) : IoAnswer × Link :=
  match l.io with
  | a :: as => (a, { l with io := as })
  | [] => (Config.freeIoAnswer l.ioUsed, { l with ioUsed := l.ioUsed + 1 })

/-- The next answer of a read (93 U7): the first given one, or a free one (log 2). -/
def Link.nextRead (l : Link) : ReadAnswer × Link :=
  match l.reads with
  | a :: as => (a, { l with reads := as })
  | [] => (Config.freeReadAnswer l.readUsed, { l with readUsed := l.readUsed + 1 })

/-- Appending events to `sl_trace` in program order (20_memory R75). -/
def Slp.emit (es : List SlpEvent) (t : Slp) : Slp := { t with slTrace := t.slTrace ++ es }

/-- An access that may fail: completed it records its events, failed it records none (60_exceptions R303). -/
def Slp.access (es : List SlpEvent) (t : Slp) : IoAnswer × Slp :=
  let (a, l) := t.link.nextIo
  match a with
  | .ok => (.ok, { t.emit es with link := l })
  | .fail => (.fail, { t with link := l })

/-- `SerOpen(BAUD)` (00_scope R9). -/
def Slp.serOpen (t : Slp) : IoAnswer × Slp := t.access [.opened]

/-- `SerWrite(bs)`: one `Tx` a byte (00_scope R9). -/
def Slp.serWrite (bs : List Byte) (t : Slp) : IoAnswer × Slp := t.access (bs.map .tx)

/-- `SerFlush()`, the one barrier (20_memory R78). -/
def Slp.serFlush (t : Slp) : IoAnswer × Slp := t.access [.flush]

/-- `SerReadLine()`: always records `Rx(r)` (20_memory R73, 60 R303). -/
def Slp.serReadLine (t : Slp) : ReadResult × Slp :=
  let (a, l) := t.link.nextRead
  (readResult a, { t.emit [.rx (readResult a)] with link := l })

/-- `SerClose()`; its failure is ignored (43 R209; log 14). -/
def Slp.serClose (t : Slp) : Slp := t.emit [.closed]

/-- `Wait(d)` (00_scope R9). -/
def Slp.wait (d : Nat) (t : Slp) : Slp := t.emit [.wait d]

/-- `GoInactive()`, the one way into Inactive (43 R209). -/
def Slp.goInactive (t : Slp) : Slp :=
  let t1 := { t with scState := .inactive }
  if t1.portOpen then { t1.serClose with portOpen := false } else t1

/-- `GoInactive(); raise E` (43 R210, 60 R316). -/
def raiseInactive {α : Type} (e : Status) (t : Slp) : Run Slp α := raise e t.goInactive

/-- `SendCmd(bs)` (43 R210). -/
def Slp.sendCmd (bs : List Byte) (t : Slp) : Run Slp Unit :=
  match t.serWrite bs with
  | (.fail, t1) => raiseInactive .ioFailure t1
  | (.ok, t1) =>
    match t1.serFlush with
    | (.fail, t2) => raiseInactive .ioFailure t2
    | (.ok, t2) => .done () t2

/-- `RecvLine()` (43 R210). -/
def Slp.recvLine (t : Slp) : Run Slp (List Byte) :=
  match t.serReadLine with
  | (.timeout, t1) => raiseInactive .ioTimeout t1
  | (.fail, t1) => raiseInactive .ioFailure t1
  | (.line bs, t1) => .done bs t1

/-- `RequireActive()` (43 R211); the cached metadata exists in Active only. -/
def Slp.requireActive (t : Slp) : Run Slp Firmware :=
  match t.scState with
  | .connecting => raise .inactive t
  | .active fw => .done fw t
  | .inactive => raise .inactive t

/-- `RequireVersion(v)`: a numeric comparison (43 R211). -/
def Slp.requireVersion (v : Nat) (fw : Firmware) (t : Slp) : Run Slp Unit :=
  if fw.verNum < v then raise .unsupportedVersion t else .done () t

/-- The response of an SLP command; the operand latches hold no value afterwards (10_state R34, R35). -/
def Slp.respond (st : Status) (res : Result) (t : Slp) : Slp := { t with rsp := some ⟨st, res⟩, latch := none }

/-- How an SLP command ends (60_exceptions R316). -/
def Slp.finish : Run Slp Result → Slp
  | .done v t => t.respond .ok v
  | .raised e t => t.respond e .none

/-! ### The machine -/

/-- A command of RTX as a step of the machine. -/
def State.onRtx (f : Rtx → Run Rtx Result) (s : State) : State := { s with rtx := Rtx.finish (f s.rtx) }

/-- A command of SLP as a step of the machine. -/
def State.onSlp (f : Slp → Run Slp Result) (s : State) : State := { s with slp := Slp.finish (f s.slp) }

end Sys2Proof.Machine
end

