-- ==== Sys2Proof/Machine/RadioTiming.lean ====
section
/-! DEFINITION. RadioTiming: the bit timing encoder (SYM, TRANSMIT_BITS), 40_radio_bit_timing. -/

namespace Sys2Proof.Machine

/-- The four events of one pulse symbol (40 R131, 30 R91). -/
def symEvents (cfg : Config) (b : Bit) : List RtxEvent :=
  [.drive .high, .wait (high cfg b), .drive .low, .wait (low cfg b)]

/-- The events of a bit sequence (40 R133). -/
def bitEvents (cfg : Config) (seq : BitSequence) : List RtxEvent := seq.flatMap (symEvents cfg)

/-- `SYM b` (40 R131). -/
def Rtx.sym (cfg : Config) (b : Bit) (r : Rtx) : Rtx :=
  (((r.pinDrive .high).wait (high cfg b)).pinDrive .low).wait (low cfg b)

/-- `TRANSMIT_BITS seq` (40 R133). -/
def Rtx.transmitBits (cfg : Config) (seq : BitSequence) (r : Rtx) : Rtx :=
  seq.foldl (fun r b => r.sym cfg b) r

/-- SYM0 as a step (40 R131; log 8). -/
def execSym0 (s : State) : Out := .next (s.onRtx fun r => .done .none (r.sym s.cfg false))

/-- SYM1 as a step (40 R131; log 8). -/
def execSym1 (s : State) : Out := .next (s.onRtx fun r => .done .none (r.sym s.cfg true))

/-- TRANSMIT_BITS as a step (40 R133; log 8). -/
def execTransmitBits (seq : BitSequence) (s : State) : Out :=
  .next (s.onRtx fun r => .done .none (r.transmitBits s.cfg seq))

end Sys2Proof.Machine
end

