-- ==== Sys2Proof/Machine/RadioFrame.lean ====
section
/-! DEFINITION. RadioFrame: the frame builder (BUILD), 41_radio_frame_builder. -/

namespace Sys2Proof.Machine

/-- `BUILD address, unit, action` (41 R155): the frame, or the error of the first field that is bad. -/
def buildFrame (cfg : Config) (address unit : Int) (action : Action) : Except Status BitSequence :=
  if addressValid cfg address then
    match unitField cfg unit with
    | none => .error .invalidUnit
    | some code => .ok (frameOf cfg (addrField cfg address) code action)
  else .error .invalidAddress

/-- BUILD as a run: no state, no events (41 R155). -/
def Rtx.build (cfg : Config) (address unit : Int) (action : Action) (r : Rtx) : Run Rtx BitSequence :=
  match buildFrame cfg address unit action with
  | .error e => raise e r
  | .ok f => .done f r

/-- BUILD as a step: its result is shown as the step's output (41 R155; log 8). -/
def execBuild (address unit : Int) (action : Action) (s : State) : Out :=
  .next (s.onRtx fun r => (r.build s.cfg address unit action).andThen fun f r' => .done (.frame f) r')

end Sys2Proof.Machine
end

