-- ==== Sys2Proof/Machine/RadioTransmitter.lean ====
section
/-! DEFINITION. RadioTransmitter: OPEN, TRANSMIT, TRANSMIT_ALL, CLOSE (42_radio_transmitter) and the frame images. -/

namespace Sys2Proof.Machine

/-- `RTX.OPEN` in Unbound (42 R171). -/
def Rtx.openPin (cfg : Config) (pin retries : Int) (r : Rtx) : Run Rtx Result :=
  if pin ∉ cfg.validPins then raise .invalidPin r
  else if retries < 1 then raise .invalidRetryCount r
  else
    let r1 := (r.pinBind pin).pinDrive .low
    .done .none { r1 with txState := .opened { pin := pin, retries := retries.toNat, line := .low } }

/-- `RTX.OPEN pin, retries` (42 R170, R171): refused in Open (93 U3), `Closed` in Closed. -/
def execRtxOpen (pin retries : Int) (s : State) : Out :=
  match s.rtx.txState with
  | .unbound => .next (s.onRtx (Rtx.openPin s.cfg pin retries))
  | .opened _ => .refused .openWhileOpen
  | .closed => .next (s.onRtx (raise .closed))

/-- A frame and its idle: `TRANSMIT_BITS f; Wait(T_SETTLE)` (42 R176, 30 R92). -/
def Rtx.sendFrame (cfg : Config) (f : BitSequence) (r : Rtx) : Rtx := (r.transmitBits cfg f).wait cfg.tSettle

/-- One repetition of TRANSMIT: the frame is built fresh (42 R176, 41 R157). -/
def Rtx.repetition (cfg : Config) (address unit : Int) (action : Action) (r : Rtx) : Run Rtx Unit :=
  (r.build cfg address unit action).andThen fun f r' => .done () (r'.sendFrame cfg f)

/-- `RTX.TRANSMIT` (42 R176). -/
def Rtx.transmit (cfg : Config) (address unit : Int) (action : Action) (r : Rtx) : Run Rtx Unit :=
  match r.txState with
  | .unbound => raise .closed r
  | .opened b => repeatRun b.retries (Rtx.repetition cfg address unit action) r
  | .closed => raise .closed r

/-- `RTX.TRANSMIT_ALL`: `tx_retries` times TRANSMIT of the ALL pair; an inner error ends it (42 R180, 60 R319). -/
def Rtx.transmitAll (cfg : Config) (action : Action) (r : Rtx) : Run Rtx Unit :=
  match r.txState with
  | .unbound => raise .closed r
  | .opened b => repeatRun b.retries (Rtx.transmit cfg cfg.allAddress cfg.allUnit action) r
  | .closed => raise .closed r

/-- `RTX.CLOSE`, idempotent (42 R184). -/
def Rtx.closePin (r : Rtx) : Run Rtx Result :=
  match r.txState with
  | .unbound => .done .none r
  | .opened b => .done .none { r.pinRelease b.pin with txState := .closed }
  | .closed => .done .none r

/-- A frame image on the line: the part of TRANSMIT that sends one frame, under TRANSMIT's checks (30 R118; log 7). -/
def Rtx.sendImage (cfg : Config) (address code : BitSequence) (action : Action) (r : Rtx) : Run Rtx Result :=
  match r.txState with
  | .unbound => raise .closed r
  | .opened _ =>
    if codeInTable cfg code then .done .none (r.sendFrame cfg (frameOf cfg address code action))
    else raise .invalidUnit r
  | .closed => raise .closed r

/-- `RTX.TRANSMIT address, unit, action` (42 R176). -/
def execRtxTransmit (address unit : Int) (action : Action) (s : State) : Out :=
  .next (s.onRtx fun r => (r.transmit s.cfg address unit action).andThen fun _ r' => .done .none r')

/-- `RTX.TRANSMIT_ALL action` (42 R180). -/
def execRtxTransmitAll (action : Action) (s : State) : Out :=
  .next (s.onRtx fun r => (r.transmitAll s.cfg action).andThen fun _ r' => .done .none r')

/-- `RTX.CLOSE` (42 R184). -/
def execRtxClose (s : State) : Out := .next (s.onRtx Rtx.closePin)

/-- TX_ON (30 R118; log 7). -/
def execTxOn (address code : BitSequence) (s : State) : Out :=
  .next (s.onRtx (Rtx.sendImage s.cfg address code .on))

/-- TX_OFF (30 R118; log 7). -/
def execTxOff (address code : BitSequence) (s : State) : Out :=
  .next (s.onRtx (Rtx.sendImage s.cfg address code .off))

end Sys2Proof.Machine
end

