-- ==== Sys2Proof/Machine/SerialLifecycle.lean ====
section
/-! DEFINITION. SerialLifecycle: CONNECT, GET_VERSION, GET_VERSION_NUMBER, CLOSE (43_serial_lifecycle). -/

namespace Sys2Proof.Machine

/-- What CONNECT does with the handshake line (43 R201): code name before number (60 R312). -/
def Slp.checkFirmware (cfg : Config) (bs : List Byte) (t : Slp) : Run Slp Result :=
  match parseVersion bs with
  | none => raiseInactive .invalidFirmware t
  | some (n, cn) =>
    if cn ≠ cfg.expectedCodename then raiseInactive .invalidFirmware t
    else if n < cfg.minVersion then raiseInactive .unsupportedVersion t
    else .done .none { t with scState := .active { verStr := bs, verNum := n, codename := cn } }

/-- The version query and its answer, the wire part of CONNECT (43 R201). -/
def Slp.handshake (cfg : Config) (t : Slp) : Run Slp Result :=
  (t.sendCmd [0x60]).andThen fun _ t1 => t1.recvLine.andThen fun bs t2 => t2.checkFirmware cfg bs

/-- `SLP.CONNECT` in Connecting (43 R201). -/
def Slp.connect (cfg : Config) (t : Slp) : Run Slp Result :=
  match t.serOpen with
  | (.fail, t1) => raiseInactive .ioFailure t1
  | (.ok, t1) => (Slp.wait cfg.tResetSettle { t1 with portOpen := true }).handshake cfg

/-- `SLP.CONNECT` (43 R200, R201): refused in Active (93 U4), `Inactive` in Inactive. -/
def execSlpConnect (s : State) : Out :=
  match s.slp.scState with
  | .connecting => .next (s.onSlp (Slp.connect s.cfg))
  | .active _ => .refused .connectWhileActive
  | .inactive => .next (s.onSlp (raise .inactive))

/-- `SLP.GET_VERSION` (43 R206). -/
def execSlpGetVersion (s : State) : Out :=
  .next (s.onSlp fun t => t.requireActive.andThen fun fw t' => .done (.bytes fw.verStr) t')

/-- `SLP.GET_VERSION_NUMBER` (43 R207). -/
def execSlpGetVersionNumber (s : State) : Out :=
  .next (s.onSlp fun t => t.requireActive.andThen fun fw t' => .done (.number fw.verNum) t')

/-- `SLP.CLOSE`, idempotent (43 R208). -/
def Slp.close (t : Slp) : Run Slp Result :=
  match t.scState with
  | .connecting => .done .none t
  | .active _ => .done .none t.goInactive
  | .inactive => .done .none t

/-- `SLP.CLOSE` (43 R208). -/
def execSlpClose (s : State) : Out := .next (s.onSlp Slp.close)

/-- W.QUERY_VERSION: the part of CONNECT from its query on; where the transport is not open yet, CONNECT's rule
opens it first (30 R118, 43 R201; log 6). -/
def execWQueryVersion (s : State) : Out :=
  match s.slp.scState with
  | .connecting =>
    .next (s.onSlp fun t => if t.portOpen then t.handshake s.cfg else t.connect s.cfg)
  | .active _ => .refused .connectWhileActive
  | .inactive => .next (s.onSlp (raise .inactive))

end Sys2Proof.Machine
end

