-- ==== Sys2Proof/Machine/SerialGpio.lean ====
section
/-! DEFINITION. SerialGpio: SET_DIGITAL, READ_DIGITAL, READ_ANALOG (44_serial_gpio) and their wire images. -/

namespace Sys2Proof.Machine

/-- A command byte with one response line: write, flush, read (30_encoding R93, format F-B1L). -/
def Slp.exchange (b : Byte) (t : Slp) : Run Slp (List Byte) :=
  (t.sendCmd [b]).andThen fun _ t1 => t1.recvLine

/-- `SLP.SET_DIGITAL pin, value` (44 R231). -/
def Slp.setDigital (cfg : Config) (pin : Int) (value : Bit) (t : Slp) : Run Slp Result :=
  t.requireActive.andThen fun _ t1 =>
    if digitalPinValid cfg pin then
      (t1.sendCmd [setDigitalByte pin value]).andThen fun _ t2 => .done .none t2
    else raise .invalidPin t1

/-- `SLP.READ_DIGITAL` (44 R233). -/
def Slp.readDigital (cfg : Config) (t : Slp) : Run Slp Result :=
  t.requireActive.andThen fun _ t1 =>
    (t1.exchange 0x3F).andThen fun bs t2 => .done (.pins (decodePinState cfg bs)) t2

/-- What READ_ANALOG does with the response line (44 R236). -/
def Slp.analogResult (cfg : Config) (bs : List Byte) (t : Slp) : Run Slp Result :=
  match parseInt bs with
  | none => raiseInactive .malformedResponse t
  | some v => if cfg.analogMax < v then raiseInactive .malformedResponse t else .done (.number v) t

/-- `SLP.READ_ANALOG pin` (44 R236). -/
def Slp.readAnalog (cfg : Config) (pin : Int) (t : Slp) : Run Slp Result :=
  t.requireActive.andThen fun _ t1 =>
    if analogPinValid cfg pin then
      (t1.exchange (readAnalogByte pin.toNat)).andThen fun bs t2 => t2.analogResult cfg bs
    else raise .invalidPin t1

/-- `SLP.SET_DIGITAL` (44 R231). -/
def execSlpSetDigital (pin : Int) (value : Bit) (s : State) : Out := 
  .next (s.onSlp (Slp.setDigital s.cfg pin value))

/-- `SLP.READ_DIGITAL` (44 R233). -/
def execSlpReadDigital (s : State) : Out := .next (s.onSlp (Slp.readDigital s.cfg))

/-- `SLP.READ_ANALOG` (44 R236). -/
def execSlpReadAnalog (pin : Int) (s : State) : Out := .next (s.onSlp (Slp.readAnalog s.cfg pin))

/-- W.SET_HIGH, issued by SET_DIGITAL pin, 1 (30 R118; log 6). -/
def execWSetHigh (pin : Nat) (s : State) : Out := .next (s.onSlp (Slp.setDigital s.cfg pin true))

/-- W.SET_LOW, issued by SET_DIGITAL pin, 0 (30 R118; log 6). -/
def execWSetLow (pin : Nat) (s : State) : Out := .next (s.onSlp (Slp.setDigital s.cfg pin false))

/-- W.READ_DIGITAL, issued by READ_DIGITAL (30 R118; log 6). -/
def execWReadDigital (s : State) : Out := .next (s.onSlp (Slp.readDigital s.cfg))

/-- W.READ_ANALOG, issued by READ_ANALOG pin (30 R118; log 6). -/
def execWReadAnalog (pin : Nat) (s : State) : Out := .next (s.onSlp (Slp.readAnalog s.cfg pin))

end Sys2Proof.Machine
end

