-- ==== Sys2Proof/Machine/SerialPersistent.lean ====
section
/-! DEFINITION. SerialPersistent: GET_NAME, STORE_NAME, SAVE_POWER_ON, READ_POWER_ON (45_serial_persistent) and their
wire images. -/

namespace Sys2Proof.Machine

/-- RequireActive, then RequireVersion (43 R211, 45 R260). -/
def Slp.requireGate (v : Nat) (t : Slp) : Run Slp Unit :=
  t.requireActive.andThen fun fw t1 => t1.requireVersion v fw

/-- `SLP.GET_NAME` (45 R261): the content of the line, of any length. -/
def Slp.getName (cfg : Config) (t : Slp) : Run Slp Result :=
  (t.requireGate cfg.vName).andThen fun _ t1 =>
    (t1.exchange 0x3D).andThen fun bs t2 => .done (.bytes bs) t2

/-- The first half of STORE_NAME: `#` and the name (45 R263, 30 R93 format F-B17). -/
def Slp.sendName (cfg : Config) (name : NameBytes) (t : Slp) : Run Slp Unit :=
  (t.requireGate cfg.vName).andThen fun _ t1 => t1.sendCmd (0x23 :: name)

/-- `SLP.STORE_NAME name` (45 R263): write, then verify by reading back. -/
def Slp.storeName (cfg : Config) (name : NameBytes) (t : Slp) : Run Slp Result :=
  (t.sendName cfg name).andThen fun _ t1 =>
    (t1.exchange 0x3D).andThen fun bs t2 =>
      if bs = name then .done .none t2 else raise .nameMismatch t2

/-- `SLP.SAVE_POWER_ON` (45 R265). -/
def Slp.savePowerOn (cfg : Config) (t : Slp) : Run Slp Result :=
  (t.requireGate cfg.vSavePo).andThen fun _ t1 =>
    (t1.sendCmd [0x2B]).andThen fun _ t2 => .done .none t2

/-- `SLP.READ_POWER_ON` (45 R267). -/
def Slp.readPowerOn (cfg : Config) (t : Slp) : Run Slp Result :=
  (t.requireGate cfg.vReadPo).andThen fun _ t1 =>
    (t1.exchange 0x2D).andThen fun bs t2 => .done (.pins (decodePinState cfg bs)) t2

/-- `SLP.GET_NAME` (45 R261). -/
def execSlpGetName (s : State) : Out := .next (s.onSlp (Slp.getName s.cfg))

/-- `SLP.STORE_NAME` (45 R263). -/
def execSlpStoreName (name : NameBytes) (s : State) : Out := .next (s.onSlp (Slp.storeName s.cfg name))

/-- `SLP.SAVE_POWER_ON` (45 R265). -/
def execSlpSavePowerOn (s : State) : Out := .next (s.onSlp (Slp.savePowerOn s.cfg))

/-- `SLP.READ_POWER_ON` (45 R267). -/
def execSlpReadPowerOn (s : State) : Out := .next (s.onSlp (Slp.readPowerOn s.cfg))

/-- W.SAVE_POWER_ON, issued by SAVE_POWER_ON (30 R118; log 6). -/
def execWSavePowerOn (s : State) : Out := .next (s.onSlp (Slp.savePowerOn s.cfg))

/-- W.READ_POWER_ON, issued by READ_POWER_ON (30 R118; log 6). -/
def execWReadPowerOn (s : State) : Out := .next (s.onSlp (Slp.readPowerOn s.cfg))

/-- W.READ_NAME, issued by GET_NAME and by the read-back of STORE_NAME (30 R118; log 6). -/
def execWReadName (s : State) : Out := .next (s.onSlp (Slp.getName s.cfg))

/-- W.STORE_NAME, the first half of STORE_NAME: no response is read (30 R118; log 6). -/
def execWStoreName (name : NameBytes) (s : State) : Out :=
  .next (s.onSlp fun t => (t.sendName s.cfg name).andThen fun _ t1 => .done .none t1)

end Sys2Proof.Machine
end

