-- ==== Sys2Proof/Machine/Dispatch.lean ====
section
/-! DEFINITION. Dispatch: one arm per instruction, each a direct call of its meaning. -/

namespace Sys2Proof.Machine

def exec (i : Instr) (s : State) : Host.Outcome State Fault Refusal :=
  match i with
  | .rtxOpen pin retries => Sys2Proof.Machine.execRtxOpen pin retries s
  | .rtxTransmit address unit action => Sys2Proof.Machine.execRtxTransmit address unit action s
  | .rtxTransmitAll action => Sys2Proof.Machine.execRtxTransmitAll action s
  | .rtxClose => Sys2Proof.Machine.execRtxClose s
  | .slpConnect => Sys2Proof.Machine.execSlpConnect s
  | .slpGetVersion => Sys2Proof.Machine.execSlpGetVersion s
  | .slpGetVersionNumber => Sys2Proof.Machine.execSlpGetVersionNumber s
  | .slpSetDigital pin value => Sys2Proof.Machine.execSlpSetDigital pin value s
  | .slpReadDigital => Sys2Proof.Machine.execSlpReadDigital s
  | .slpReadAnalog pin => Sys2Proof.Machine.execSlpReadAnalog pin s
  | .slpGetName => Sys2Proof.Machine.execSlpGetName s
  | .slpStoreName name => Sys2Proof.Machine.execSlpStoreName name s
  | .slpSavePowerOn => Sys2Proof.Machine.execSlpSavePowerOn s
  | .slpReadPowerOn => Sys2Proof.Machine.execSlpReadPowerOn s
  | .slpClose => Sys2Proof.Machine.execSlpClose s
  | .wQueryVersion => Sys2Proof.Machine.execWQueryVersion s
  | .wReadDigital => Sys2Proof.Machine.execWReadDigital s
  | .wSetHigh pin => Sys2Proof.Machine.execWSetHigh pin s
  | .wSetLow pin => Sys2Proof.Machine.execWSetLow pin s
  | .wReadAnalog pin => Sys2Proof.Machine.execWReadAnalog pin s
  | .wSavePowerOn => Sys2Proof.Machine.execWSavePowerOn s
  | .wReadPowerOn => Sys2Proof.Machine.execWReadPowerOn s
  | .wReadName => Sys2Proof.Machine.execWReadName s
  | .wStoreName name => Sys2Proof.Machine.execWStoreName name s
  | .txOn address code => Sys2Proof.Machine.execTxOn address code s
  | .txOff address code => Sys2Proof.Machine.execTxOff address code s
  | .sym0 => Sys2Proof.Machine.execSym0 s
  | .sym1 => Sys2Proof.Machine.execSym1 s
  | .transmitBits seq => Sys2Proof.Machine.execTransmitBits seq s
  | .build address unit action => Sys2Proof.Machine.execBuild address unit action s

end Sys2Proof.Machine
end

