-- ==== Sys2Proof/Machine/Wave.lean ====
section
/-! DEFINITION. Wave: the waveform of a trace (10_state R24) and what the rules measure on it (40 R134, 42 R177). -/

namespace Sys2Proof.Machine

/-- A segment in front of a waveform, merged with the next one if the levels are equal (10_state R24). -/
def pushSegment (l : Level) (d : Nat) : List (Level × Nat) → List (Level × Nat)
  | [] => [(l, d)]
  | (l', d') :: rest => if l = l' then (l, d + d') :: rest else (l, d) :: (l', d') :: rest

/-- The waveform of the events that follow a `Drive` to `cur`; before the first `Drive` there is none
(10_state R24). -/
def waveFrom : Option Level → List RtxEvent → List (Level × Nat)
  | _, [] => []
  | _, .drive l :: es => waveFrom (some l) es
  | some l, .wait d :: es => pushSegment l d (waveFrom (some l) es)
  | none, .wait _ :: es => waveFrom none es
  | cur, .bind _ :: es => waveFrom cur es
  | cur, .release _ :: es => waveFrom cur es

/-- `wave(tx_trace)` (10_state R24). -/
def wave (es : List RtxEvent) : List (Level × Nat) := waveFrom none es

/-- The sum of all `Wait` durations of a trace (40 R134 a). -/
def totalWait : List RtxEvent → Nat
  | [] => 0
  | .wait d :: es => d + totalWait es
  | .drive _ :: es => totalWait es
  | .bind _ :: es => totalWait es
  | .release _ :: es => totalWait es

/-- The time a waveform spends at a level (40 R134 b). -/
def levelTime (l : Level) (w : List (Level × Nat)) : Nat :=
  ((w.filter fun seg => seg.1 = l).map Prod.snd).sum

/-- The number of segments of a waveform at a level (40 R134 c). -/
def levelCount (l : Level) (w : List (Level × Nat)) : Nat := (w.filter fun seg => seg.1 = l).length

/-- The times at which the HIGH segments of a waveform begin, the waveform beginning at `t` (40 R134 d). -/
def risingEdgesFrom (t : Nat) : List (Level × Nat) → List Nat
  | [] => []
  | (.high, d) :: rest => t :: risingEdgesFrom (t + d) rest
  | (.low, d) :: rest => risingEdgesFrom (t + d) rest

/-- The bits a waveform carries: 1 exactly where a HIGH segment is longer than the LOW segment after it
(40 R134 e). -/
def bitsOfWave : List (Level × Nat) → BitSequence
  | (.high, h) :: (.low, l) :: rest => decide (l < h) :: bitsOfWave rest
  | _ => []

end Sys2Proof.Machine
end

