-- ==== Sys2Proof/Machine/Sequencer.lean ====
section
/-! DEFINITION. Sequencer: the tick-level refinement of RTX (70 R357) over the position of 10_state R21, and the
reset inputs (70 R340, R342). Informative in the spec; the operation level is `exec` (log 12). -/

namespace Sys2Proof.Machine

/-- The frame a latched TRANSMIT or TRANSMIT_ALL sends, if the word is such a command and valid (41 R155). -/
def latchedFrame (cfg : Config) (w : PortWord) : Option BitSequence :=
  match decodePortOf cfg .rtx w with
  | .ok (.rtxTransmit address unit action) => (buildFrame cfg address unit action).toOption
  | .ok (.rtxTransmitAll action) => (buildFrame cfg cfg.allAddress cfg.allUnit action).toOption
  | _ => none

/-- How many inner transmits a latched word runs: `tx_retries` for TRANSMIT_ALL, else 1 (10_state R21). -/
def outerRuns (cfg : Config) (w : Option PortWord) (retries : Nat) : Nat :=
  match w.map (decodePortOf cfg .rtx) with
  | some (.ok (.rtxTransmitAll _)) => retries
  | _ => 1

/-- The bit of the frame register at an index. -/
def frameBit (frame : BitSequence) (i : Nat) : Bit := frame.getD i false

/-- The nominal duration of the interval a position is in: the timer counts it down (70 R357). -/
def Position.interval (cfg : Config) (p : Position) : Nat :=
  match p.phase with
  | .high => high cfg (frameBit p.frameSr p.bitIdx)
  | .low => low cfg (frameBit p.frameSr p.bitIdx)
  | .settle => cfg.tSettle

/-- A position with its timer loaded with the interval of its phase (70 R357). -/
def Position.load (cfg : Config) (p : Position) : Position := { p with timer := p.interval cfg }

/-- Entering the HIGH phase of a bit: the line rises and the timer is loaded (70 R357). -/
def Rtx.enterHigh (cfg : Config) (outer rep bit : Nat) (frame : BitSequence) (r : Rtx) : Rtx :=
  { r.pinDrive .high with
    pos := some (Position.load cfg
      { outerIdx := outer, repIdx := rep, bitIdx := bit, phase := .high, frameSr := frame, timer := 0 }) }

/-- The accepting cycle of a valid TRANSMIT or TRANSMIT_ALL on an open block (70 R357). The word leaves the port, as at the
operation level (DESIGN CHOICE, log 31). -/
def Rtx.acceptTicked (cfg : Config) (w : PortWord) (r : Rtx) : Option Rtx :=
  match r.txState, latchedFrame cfg w with
  | .opened _, some f => some (Rtx.enterHigh cfg 0 0 0 f { r with cmd := none, latch := some w })
  | _, _ => none

/-- Starting a repetition: the frame is built fresh from the latched operands (70 R357, 20 R80). -/
def Rtx.nextFrame (cfg : Config) (outer rep : Nat) (p : Position) (r : Rtx) : Rtx :=
  Rtx.enterHigh cfg outer rep 0 ((r.latch.bind (latchedFrame cfg)).getD p.frameSr) r

/-- The timer has reached zero (70 R357): the next phase, bit, repetition or inner transmit, or the end. -/
def Rtx.nextPhase (cfg : Config) (b : Binding) (p : Position) (r : Rtx) : Rtx :=
  match p.phase with
  | .high =>
    { r.pinDrive .low with pos := some (Position.load cfg { p with phase := .low }) }
  | .low =>
    if p.bitIdx + 1 < cfg.frameBits then Rtx.enterHigh cfg p.outerIdx p.repIdx (p.bitIdx + 1) p.frameSr r
    else { r with pos := some (Position.load cfg { p with phase := .settle }) }
  | .settle =>
    if p.repIdx + 1 < b.retries then r.nextFrame cfg p.outerIdx (p.repIdx + 1) p
    else if p.outerIdx + 1 < outerRuns cfg r.latch b.retries then r.nextFrame cfg (p.outerIdx + 1) 0 p
    else r.respond .ok .none

/-- One clock of period TICK while a transmission runs (70 R357). The trace is the operation level's (00_scope R6): one
`Wait` an interval, of its nominal duration. That it is appended in the clock that ends the interval is the model's choice
(DESIGN CHOICE, log 30). -/
def Rtx.tick (cfg : Config) (r : Rtx) : Rtx :=
  match r.txState, r.pos with
  | .opened b, some p =>
    if cfg.tick < p.timer then { r with pos := some { p with timer := p.timer - cfg.tick } }
    else (r.wait (p.interval cfg)).nextPhase cfg b p
  | _, _ => r

/-- `n` clocks. -/
def Rtx.ticks (cfg : Config) : Nat → Rtx → Rtx
  | 0, r => r
  | n + 1, r => Rtx.ticks cfg n (r.tick cfg)

/-- A reset of RTX (10_state R36, 70 R340): the inputs are the outside's. In the middle of a command the events
already appended stay appended (70 R342; log 13). -/
def Rtx.resetBlock (r : Rtx) : Rtx :=
  { Rtx.reset with cmd := r.cmd, txTrace := if r.cmdReady then [] else r.txTrace }

/-- A reset of SLP (10_state R36, 70 R340): the transport is not closed and its answers are the outside's
(70 R342; log 13). -/
def Slp.resetBlock (t : Slp) : Slp :=
  { Slp.reset with cmd := t.cmd, link := t.link, slTrace := if t.cmdReady then [] else t.slTrace }

/-- The blocks whose reset input is raised are reset, each by itself (70 R340). -/
def State.resetBlocks (s : State) : State :=
  { s with
    rtx := if s.rtx.rst then s.rtx.resetBlock else s.rtx
    slp := if s.slp.rst then s.slp.resetBlock else s.slp }

/-- RTX can move: a transmission runs, or a word waits at its ready port (10_state R35). -/
def Rtx.canMove (r : Rtx) : Bool := r.pos.isSome || (r.cmdReady && r.cmd.isSome)

/-- SLP can move: a word waits at its ready port (10_state R35). -/
def Slp.canMove (t : Slp) : Bool := t.cmdReady && t.cmd.isSome

/-- The block that moves next; where both can, the spec gives no order and the input `turn` says it (20_memory R76;
log 10). -/
def State.mover (s : State) : Option Block :=
  match s.rtx.canMove, s.slp.canMove with
  | true, true => some s.turn
  | true, false => some .rtx
  | false, true => some .slp
  | false, false => none

/-- Accepting a word at RTX's port: the operands are sampled once (10_state R34, R35). That the word
leaves the port with it is the model's choice (DESIGN CHOICE, log 31). -/
def State.acceptRtx (w : PortWord) (s : State) : State :=
  { s with rtx := { s.rtx with cmd := none, latch := some w } }

/-- Accepting a word at SLP's port: the operands are sampled once (10_state R34, R35). That the word
leaves the port with it is the model's choice (DESIGN CHOICE, log 31). -/
def State.acceptSlp (w : PortWord) (s : State) : State :=
  { s with slp := { s.slp with cmd := none, latch := some w } }

/-- Nothing runs, waits or resets (log 9). -/
def State.quiet (s : State) : State :=
  { s with
    rtx := { s.rtx with pos := none, cmd := none, latch := none, rst := false }
    slp := { s.slp with cmd := none, latch := none, rst := false }
    image := none }

/-- An image presented to a quiet machine: a command at its block's port, everything else in the image slot
(log 5, log 9). -/
def State.present (im : Image) (s : State) : State :=
  match im with
  | .port w =>
    match opBlock w.op with
    | some .rtx => { s with rtx := { s.rtx with cmd := some w } }
    | some .slp => { s with slp := { s.slp with cmd := some w } }
    | none => { s with image := some im }
  | .wire _ => { s with image := some im }
  | .frame _ => { s with image := some im }
  | .symbol _ => { s with image := some im }
  | .bits _ => { s with image := some im }
  | .buildRequest _ _ _ => { s with image := some im }

end Sys2Proof.Machine
end

