-- ==== Sys2Proof/Machine/Step.lean ====
section
/-! DEFINITION. Step: one step of the machine: a reset, a clock of a running transmission, a command accepted and run
to completion (00_scope R6), an image of the slot, or nothing to do. -/

namespace Sys2Proof.Machine

/-- What a decoder answered, run: an instruction by `exec`, a rejected image refused by name (30_encoding R114). -/
def runDecoded (d : Except DecodeError Instr) (s : State) : Host.Outcome State Fault Refusal :=
  match d with
  | .ok i => exec i s
  | .error e => .refused (.notAnInstruction e)

/-- RTX's move: a clock of the running transmission, or the command waiting at its port. -/
def stepRtx (s : State) : Host.Outcome State Fault Refusal :=
  if s.rtx.pos.isSome then .next { s with rtx := s.rtx.tick s.cfg }
  else
    match s.rtx.cmd with
    | none => .next s
    | some w => runDecoded (decodePortOf s.cfg .rtx w) (s.acceptRtx w)

/-- SLP's move: the command waiting at its port. -/
def stepSlp (s : State) : Host.Outcome State Fault Refusal :=
  match s.slp.cmd with
  | none => .next s
  | some w => runDecoded (decodePortOf s.cfg .slp w) (s.acceptSlp w)

/-- The image slot's move (log 5); an idle machine stays as it is (60_exceptions R328; log 10). -/
def stepImage (s : State) : Host.Outcome State Fault Refusal :=
  match s.image with
  | none => .next s
  | some im => runDecoded (decode s.cfg im) { s with image := none }

/-- One step: a raised reset input first, then the block that can move, then the image slot. -/
def step (s : State) : Host.Outcome State Fault Refusal :=
  if s.rtx.rst || s.slp.rst then .next s.resetBlocks
  else
    match s.mover with
    | some .rtx => stepRtx s
    | some .slp => stepSlp s
    | none => stepImage s

/-- `s` with an opcode-table word presented so that the very next step runs it (log 9). A word of no table row is
presented as an empty image, which step refuses. -/
def State.withFetchWord (s : State) (nbits w : Nat) : State :=
  s.quiet.present ((tableImage s.cfg nbits w).getD (.wire []))

end Sys2Proof.Machine
end

