-- ==== Sys2Proof/Safety.lean ====
section
/-! DEFINITION. Safety: the invariant of the machine and the words the claims use. -/

namespace Sys2Proof.Machine

/-! ### The invariant -/

/-- A position belongs to a running transmission: its frame is the latched command's, its counters are in range
(10_state R21), the line is HIGH exactly in the HIGH phase, and the timer holds at most the interval of the phase
(70 R357). -/
def Position.Ok (cfg : Config) (b : Binding) (w : PortWord) (p : Position) : Prop :=
  latchedFrame cfg w = some p.frameSr ∧ p.bitIdx < cfg.frameBits ∧ p.repIdx < b.retries ∧
    p.outerIdx < outerRuns cfg (some w) b.retries ∧ (b.line = .high ↔ p.phase = .high) ∧ p.timer ≤ p.interval cfg

/-- RTX's invariant: `tx_retries >= 1` and `tx_pin` in VALID_PINS while Open (10_state R20); the line is LOW when no
command runs (10_state R23); the latches and the position hold a value only while a command runs (10_state R21,
R34). -/
structure Rtx.Inv (cfg : Config) (r : Rtx) : Prop where
  bound : ∀ b, r.txState = .opened b → 1 ≤ b.retries ∧ b.pin ∈ cfg.validPins
  lineLow : ∀ b, r.txState = .opened b → r.pos = none → b.line = .low
  running : ∀ p, r.pos = some p → ∃ b w, r.txState = .opened b ∧ r.latch = some w ∧ p.Ok cfg b w
  latched : r.pos = none → r.latch = none

/-- SLP's invariant: the transport is held exactly while Active; the metadata is what the handshake accepted
(43 R202); `Close` stands in the trace only once Inactive, and at most once (43 R209). -/
structure Slp.Inv (cfg : Config) (t : Slp) : Prop where
  held : t.portOpen = true ↔ ∃ fw, t.scState = .active fw
  accepted : ∀ fw, t.scState = .active fw →
    parseVersion fw.verStr = some (fw.verNum, fw.codename) ∧ fw.codename = cfg.expectedCodename ∧
      cfg.minVersion ≤ fw.verNum
  closedOnce : t.slTrace.count .closed ≤ 1 ∧ (t.scState ≠ .inactive → t.slTrace.count .closed = 0)
  latched : t.latch = none

/-- The invariant of the machine. -/
def State.Inv (s : State) : Prop := s.rtx.Inv s.cfg ∧ s.slp.Inv s.cfg

/-- No reset input is raised. -/
abbrev State.NotReset (s : State) : Prop := s.rtx.rst = false ∧ s.slp.rst = false

/-- A safe state: its step does not stop with a fault. -/
def State.Safe (s : State) : Prop := ∀ f, step s ≠ .fault f

/-! ### Words of the claims -/

/-- RTX with an error or success status shown and nothing else changed: the latches and the position hold no value
between commands. -/
def State.rtxAnswer (st : Status) (res : Result) (s : State) : State := { s with rtx := s.rtx.respond st res }

/-- SLP with a status shown and nothing else changed. -/
def State.slpAnswer (st : Status) (res : Result) (s : State) : State := { s with slp := s.slp.respond st res }

/-- RTX after sending events that leave the line LOW. -/
def State.rtxSent (es : List RtxEvent) (b : Binding) (st : Status) (res : Result) (s : State) : State :=
  { s with
    rtx := { s.rtx with
      txState := .opened { b with line := .low }
      txTrace := s.rtx.txTrace ++ es
      pos := none
      latch := none
      rsp := some ⟨st, res⟩ } }

/-- SLP after an exchange that leaves its lifecycle state as it was. -/
def State.slpSent (es : List SlpEvent) (l : Link) (st : Status) (res : Result) (s : State) : State :=
  { s with
    slp := { s.slp with slTrace := s.slp.slTrace ++ es, link := l, latch := none, rsp := some ⟨st, res⟩ } }

/-- SLP after events and `GoInactive`: the transport, if held (`held`), is closed last (43 R209). -/
def State.slpDied (es : List SlpEvent) (held : Bool) (l : Link) (st : Status) (s : State) : State :=
  { s with
    slp := { s.slp with
      scState := .inactive
      portOpen := false
      slTrace := s.slp.slTrace ++ es ++ (if held then [.closed] else [])
      link := l
      latch := none
      rsp := some ⟨st, .none⟩ } }

/-- One frame and its idle on the line (42 R176): the events of its symbols, then `Wait(T_SETTLE)`. -/
def repetitionEvents (cfg : Config) (f : BitSequence) : List RtxEvent := bitEvents cfg f ++ [.wait cfg.tSettle]

/-- `n` repetitions of one frame (42 R176, R180). -/
def repetitions (cfg : Config) (n : Nat) (f : BitSequence) : List RtxEvent :=
  (List.replicate n (repetitionEvents cfg f)).flatten

/-- What a clocked block puts on the wire in `n` clocks, seen from outside: the level of its line, where it drives it, for
one TICK a clock (70 R357). -/
def Rtx.lineEvents (cfg : Config) : Nat → Rtx → List RtxEvent
  | 0, _ => []
  | n + 1, r =>
    (match r.line with
      | some l => [.drive l, .wait cfg.tick]
      | none => []) ++ Rtx.lineEvents cfg n (r.tick cfg)

/-- The next `n` opens, writes and flushes all succeed, and leave the answers `l'`. -/
def Link.OkTimes : Nat → Link → Link → Prop
  | 0, l, l' => l = l'
  | n + 1, l, l' => ∃ m, l.nextIo = (.ok, m) ∧ Link.OkTimes n m l'

/-- The commands with one command byte and one response line (30_encoding R93, format F-B1L), valid ones: the byte and
the version the command needs (45 R260; 0 where it needs none). -/
def lineCommand (cfg : Config) : Instr → Option (Byte × Nat)
  | .slpReadDigital => some (0x3F, 0)
  | .wReadDigital => some (0x3F, 0)
  | .slpReadAnalog pin =>
    if cfg.apinMin ≤ pin ∧ pin ≤ cfg.apinMax then some (BitVec.ofNat 8 (0x30 + pin.toNat), 0) else none
  | .wReadAnalog pin => if cfg.apinMin ≤ pin ∧ pin ≤ cfg.apinMax then some (BitVec.ofNat 8 (0x30 + pin), 0) else none
  | .slpGetName => some (0x3D, cfg.vName)
  | .wReadName => some (0x3D, cfg.vName)
  | .slpReadPowerOn => some (0x2D, cfg.vReadPo)
  | .wReadPowerOn => some (0x2D, cfg.vReadPo)
  | _ => none

/-- The commands that only write (30_encoding R93, formats F-B1 and the first half of F-B17), valid ones: the bytes and
the version the command needs. -/
def writeCommand (cfg : Config) : Instr → Option (List Byte × Nat)
  | .slpSetDigital pin value =>
    if cfg.dpinMin ≤ pin ∧ pin ≤ cfg.dpinMax then
      some ([BitVec.ofNat 8 ((if value then 0x41 else 0x61) + pin.toNat)], 0)
    else none
  | .wSetHigh pin => if cfg.dpinMin ≤ pin ∧ pin ≤ cfg.dpinMax then some ([BitVec.ofNat 8 (0x41 + pin)], 0) else none
  | .wSetLow pin => if cfg.dpinMin ≤ pin ∧ pin ≤ cfg.dpinMax then some ([BitVec.ofNat 8 (0x61 + pin)], 0) else none
  | .slpSavePowerOn => some ([0x2B], cfg.vSavePo)
  | .wSavePowerOn => some ([0x2B], cfg.vSavePo)
  | .wStoreName name => some (0x23 :: name, cfg.vName)
  | _ => none

/-- The statuses a command can end with (60_exceptions R305); for a wire image, its command's; for TX_ON and TX_OFF,
see log 7. -/
def allowedStatuses : Instr → List Status
  | .rtxOpen _ _ => [.ok, .invalidPin, .invalidRetryCount, .closed]
  | .rtxTransmit _ _ _ => [.ok, .invalidAddress, .invalidUnit, .closed]
  | .rtxTransmitAll _ => [.ok, .closed]
  | .rtxClose => [.ok]
  | .slpConnect | .wQueryVersion =>
    [.ok, .inactive, .unsupportedVersion, .ioTimeout, .ioFailure, .invalidFirmware]
  | .slpGetVersion | .slpGetVersionNumber => [.ok, .inactive]
  | .slpSetDigital _ _ | .wSetHigh _ | .wSetLow _ => [.ok, .invalidPin, .inactive, .ioFailure]
  | .slpReadDigital | .wReadDigital => [.ok, .inactive, .ioTimeout, .ioFailure]
  | .slpReadAnalog _ | .wReadAnalog _ =>
    [.ok, .invalidPin, .inactive, .ioTimeout, .ioFailure, .malformedResponse]
  | .slpGetName | .wReadName => [.ok, .inactive, .unsupportedVersion, .ioTimeout, .ioFailure]
  | .slpStoreName _ => [.ok, .inactive, .unsupportedVersion, .nameMismatch, .ioTimeout, .ioFailure]
  | .wStoreName _ => [.ok, .inactive, .unsupportedVersion, .ioFailure]
  | .slpSavePowerOn | .wSavePowerOn => [.ok, .inactive, .unsupportedVersion, .ioFailure]
  | .slpReadPowerOn | .wReadPowerOn => [.ok, .inactive, .unsupportedVersion, .ioTimeout, .ioFailure]
  | .slpClose => [.ok]
  | .txOn _ _ | .txOff _ _ => [.ok, .invalidUnit, .closed]
  | .sym0 | .sym1 | .transmitBits _ => [.ok]
  | .build _ _ _ => [.ok, .invalidAddress, .invalidUnit]

end Sys2Proof.Machine
end

