-- ==== Sys2Proof/Certificates/Slice0/Obligations.lean ====
section
/-! DEFINITION. Obligations: the statements for the provers. A "log n" is notes/assumptions/n.md; "D<n>" is the spec's own
decision in 92_eei_decisions.md, which the statement follows. -/

open Sys2Proof Sys2Proof.Machine

/-! ### Reset and constants -/

/-- 10_state R36, 70 R341, 00_scope R5, 43 R203 (decisions D2, D29): no object exists after reset: empty traces, nothing
latched, no response, the line not driven, no transport held, both ports ready; every constant whose value the source
gives has that value, the code name byte for byte, and the constants meet the constraints on them. -/
def Obligations.ResetLeavesBothBlocksUnbuilt : Prop :=
  (State.reset.rtx.txState = .unbound ∧ State.reset.rtx.lineOe = false ∧ State.reset.rtx.line = none ∧
    State.reset.rtx.txTrace = [] ∧ State.reset.rtx.pos = none ∧ State.reset.rtx.latch = none ∧
    State.reset.rtx.rsp = none ∧ State.reset.rtx.cmdReady = true) ∧
  (State.reset.slp.scState = .connecting ∧ State.reset.slp.portOpen = false ∧ State.reset.slp.slTrace = [] ∧
    State.reset.slp.latch = none ∧ State.reset.slp.rsp = none ∧ State.reset.slp.cmdReady = true) ∧
  (State.reset.cfg.DocumentedTiming ∧ State.reset.cfg.tTol = 20 ∧ State.reset.cfg.tReadTimeout = 2000000) ∧
  State.reset.cfg.DocumentedFrame ∧ State.reset.cfg.DocumentedRanges ∧
  (State.reset.cfg.allAddress = 85 ∧ State.reset.cfg.allUnit = 3 ∧ State.reset.cfg.defaultRetries = 6) ∧
  (State.reset.cfg.minVersion = 2 ∧ State.reset.cfg.vName = 2 ∧ State.reset.cfg.vSavePo = 2 ∧
    State.reset.cfg.vReadPo = 3) ∧
  State.reset.cfg.expectedCodename =
    [0x53, 0x65, 0x72, 0x69, 0x61, 0x6C, 0x41, 0x72, 0x64, 0x75, 0x69, 0x6E, 0x6F, 0x47, 0x70, 0x69, 0x6F] ∧
  State.reset.cfg.Ok

/-! ### RTX: bit timing -/

/-- 40 R130: the two HIGH times and the two LOW times, and the laws the source states of them. -/
def Obligations.PulseDurations : Prop :=
  ∀ cfg : Config, cfg.TimingOk →
    high cfg false = cfg.tHigh0 ∧ high cfg true = cfg.tHigh1 ∧
      (∀ b, low cfg b = cfg.tBit - high cfg b ∧ high cfg b + low cfg b = cfg.tBit ∧ 0 < low cfg b) ∧
      0 < high cfg false ∧ high cfg false < high cfg true ∧ high cfg true < cfg.tBit ∧
      low cfg false = high cfg true ∧ low cfg true = high cfg false ∧
      (cfg.DocumentedTiming →
        high cfg false = 180 ∧ high cfg true = 540 ∧ low cfg false = 540 ∧ low cfg true = 180)

/-- 40 R131: SYM appends its four events and leaves the line LOW. The whole next state; that SYM runs by itself as a
step, in every lifecycle state, writes the line only while Open, and ends with OK at the response port, the latches and
the position empty, is the model's choice (log 8). -/
def Obligations.SymSendsOnePulse : Prop :=
  ∀ (s : State) (i : Instr) (b : Bit), (i = .sym0 ∧ b = false ∨ i = .sym1 ∧ b = true) →
    ∃ x, exec i s =
        .next { s with
          rtx := { s.rtx with
            txState := x
            txTrace := s.rtx.txTrace ++
              [.drive .high, .wait (high s.cfg b), .drive .low, .wait (s.cfg.tBit - high s.cfg b)]
            pos := none
            latch := none
            rsp := some ⟨.ok, .none⟩ } } ∧
      (∀ d, s.rtx.txState = .opened d → x = .opened { d with line := .low }) ∧
      ((∀ d, s.rtx.txState ≠ .opened d) → x = s.rtx.txState)

/-- 40 R133: TRANSMIT_BITS appends one four-event group a bit, in index order, and leaves the line LOW, or as it was
where there is no bit. The whole next state; that TRANSMIT_BITS runs by itself as a step, in every lifecycle state, writes
the line only while Open, and ends with OK at the response port, the latches and the position empty, is the model's
choice (log 8). -/
def Obligations.TransmitBitsSendsItsSymbols : Prop :=
  ∀ (s : State) (seq : BitSequence),
    ∃ x es, exec (.transmitBits seq) s =
        .next { s with
          rtx := { s.rtx with
            txState := x
            txTrace := s.rtx.txTrace ++ es
            pos := none
            latch := none
            rsp := some ⟨.ok, .none⟩ } } ∧
      es = seq.flatMap (fun b =>
        [.drive .high, .wait (high s.cfg b), .drive .low, .wait (s.cfg.tBit - high s.cfg b)]) ∧
      es.length = 4 * seq.length ∧
      (∀ d, s.rtx.txState = .opened d → seq ≠ [] → x = .opened { d with line := .low }) ∧
      (seq = [] ∨ (∀ d, s.rtx.txState ≠ .opened d) → x = s.rtx.txState)

/-- 40 R134 (a), (b), (d): the duration of a sequence is T_BIT a bit whatever the bits are; its HIGH time is counted by
its zeros and ones; the i-th rising edge is exactly T_BIT * i after the first. -/
def Obligations.SequenceTiming : Prop :=
  ∀ (cfg : Config) (seq : BitSequence) (start : Nat), cfg.TimingOk →
    totalWait (bitEvents cfg seq) = cfg.tBit * seq.length ∧
      levelTime .high (wave (bitEvents cfg seq)) = cfg.tHigh0 * seq.count false + cfg.tHigh1 * seq.count true ∧
      risingEdgesFrom start (wave (bitEvents cfg seq)) =
        (List.range seq.length).map (fun i => start + cfg.tBit * i)

/-- 40 R134 (c): a sequence has exactly one HIGH and one LOW segment a bit, of the durations of its bit. -/
def Obligations.SequenceHasTwoSegmentsPerBit : Prop :=
  ∀ (cfg : Config) (seq : BitSequence),
    wave (bitEvents cfg seq) = seq.flatMap (fun b => [(.high, high cfg b), (.low, low cfg b)]) ∧
      levelCount .high (wave (bitEvents cfg seq)) = seq.length ∧
      levelCount .low (wave (bitEvents cfg seq)) = seq.length

/-- 40 R134 (e): the sequence can be recovered from its waveform. -/
def Obligations.WaveformCarriesTheBits : Prop :=
  ∀ (cfg : Config) (seq : BitSequence), cfg.TimingOk → bitsOfWave (wave (bitEvents cfg seq)) = seq

/-! ### RTX: frames -/

/-- 41 R150, R151, R155, R156 (the order of the two checks is decision D6; the place of the result is the model's choice,
log 8): BUILD with valid operands answers a frame of the four fields: the address most significant bit first, the unit's
code in list order, the action pattern, the end marker; with the documented lengths 25 bits, 0011 or 1100, one 0 bit. A
bad address ends with InvalidAddress, else a bad unit with InvalidUnit; nothing else changes. -/
def Obligations.BuildAnswersTheFourFields : Prop :=
  ∀ (s : State) (address unit : Int) (action : Action),
    (0 ≤ address ∧ address < 2 ^ s.cfg.addrBits → 1 ≤ unit ∧ unit ≤ 5 → s.cfg.FrameOk →
      ∃ f code, exec (.build address unit action) s = .next (s.rtxAnswer .ok (.frame f)) ∧
        s.cfg.unitCode[(unit - 1).toNat]? = some code ∧ f.length = s.cfg.frameBits ∧
        (numberOfBits (f.take s.cfg.addrBits) : Int) = address ∧
        (f.drop s.cfg.addrBits).take s.cfg.unitBits = code ∧
        (f.drop (s.cfg.addrBits + s.cfg.unitBits)).take s.cfg.actionBits =
          (match action with
          | .on => s.cfg.actionOn
          | .off => s.cfg.actionOff) ∧
        f.drop (s.cfg.addrBits + s.cfg.unitBits + s.cfg.actionBits) = s.cfg.endMark ∧
        (s.cfg.DocumentedFrame →
          f.length = 25 ∧
          (f.drop 20).take 4 =
            (match action with
            | .on => [false, false, true, true]
            | .off => [true, true, false, false]) ∧
          f.drop 24 = [false])) ∧
    (address < 0 ∨ 2 ^ s.cfg.addrBits ≤ address →
      exec (.build address unit action) s = .next (s.rtxAnswer .invalidAddress .none)) ∧
    (0 ≤ address ∧ address < 2 ^ s.cfg.addrBits → unit < 1 ∨ 5 < unit →
      exec (.build address unit action) s = .next (s.rtxAnswer .invalidUnit .none))

/-- 41 R156 (f), (g): with the documented lengths and patterns, On and Off of one address and code differ in exactly
positions 20..23; with fields of any fixed lengths, a frame determines its address, its code and its action. -/
def Obligations.FramesAreTellable : Prop :=
  (∀ (cfg : Config) (a c : BitSequence) (i : Nat), cfg.DocumentedFrame → a.length = 8 → c.length = 12 →
    ((frameOf cfg a c .on)[i]? ≠ (frameOf cfg a c .off)[i]? ↔ 20 ≤ i ∧ i < 24)) ∧
  (∀ (cfg : Config) (a a' c c' : BitSequence) (act act' : Action), cfg.FrameOk →
    a.length = cfg.addrBits → a'.length = cfg.addrBits → c.length = cfg.unitBits → c'.length = cfg.unitBits →
    frameOf cfg a c act = frameOf cfg a' c' act' → a = a' ∧ c = c' ∧ act = act')

/-- 30_encoding R92, and the row patterns of R118: a bit sequence decodes to TX_ON or TX_OFF exactly when it is the
frame of those fields, and these have their lengths. R110 asks of a frame RTX can have sent that its code is a unit's,
too: that any code of the right length decodes follows R118's patterns, and that such a frame ends with InvalidUnit when
it runs is the model's choice (log 7). -/
def Obligations.FrameDecodesExactlyItsFields : Prop :=
  ∀ (cfg : Config) (f a c : BitSequence), cfg.FrameOk →
    (decode cfg (.frame f) = .ok (.txOn a c) ↔
      a.length = cfg.addrBits ∧ c.length = cfg.unitBits ∧ f = frameOf cfg a c .on) ∧
    (decode cfg (.frame f) = .ok (.txOff a c) ↔
      a.length = cfg.addrBits ∧ c.length = cfg.unitBits ∧ f = frameOf cfg a c .off)

/-! ### RTX: the transmitter -/

/-- 42 R171: OPEN in Unbound with a valid pin and at least one retry binds the pin and drives the line LOW; nothing else
changes. -/
def Obligations.OpenBindsThePin : Prop :=
  ∀ (s : State) (pin retries : Int), s.rtx.txState = .unbound → pin ∈ s.cfg.validPins → 1 ≤ retries →
    exec (.rtxOpen pin retries) s =
      .next { s with
        rtx := { s.rtx with
          txState := .opened { pin := pin, retries := retries.toNat, line := .low }
          txTrace := s.rtx.txTrace ++ [.bind pin, .drive .low]
          pos := none
          latch := none
          rsp := some ⟨.ok, .none⟩ } }

/-- 42 R170, R171 (decisions D2, D4, D5; refused in Open by 93 U3): the errors of OPEN in their order; nothing else
changes. -/
def Obligations.OpenRejects : Prop :=
  ∀ (s : State) (pin retries : Int),
    (s.rtx.txState = .unbound → pin ∉ s.cfg.validPins →
      exec (.rtxOpen pin retries) s = .next (s.rtxAnswer .invalidPin .none)) ∧
    (s.rtx.txState = .unbound → pin ∈ s.cfg.validPins → retries < 1 →
      exec (.rtxOpen pin retries) s = .next (s.rtxAnswer .invalidRetryCount .none)) ∧
    (s.rtx.txState = .closed → exec (.rtxOpen pin retries) s = .next (s.rtxAnswer .closed .none)) ∧
    (∀ b, s.rtx.txState = .opened b → exec (.rtxOpen pin retries) s = .refused .openWhileOpen)

/-- 42 R176: TRANSMIT: Closed first, then InvalidAddress, then InvalidUnit, each with no event; else `tx_retries` copies
of the frame's events, four a bit, and `Wait(T_SETTLE)`, the line LOW at the end; nothing else changes. `tx_retries` is at
least 1 in every state of the invariant (10_state R20); the fields of a frame have their fixed lengths (00_scope R5). -/
def Obligations.TransmitSendsRetriesFrames : Prop :=
  ∀ (s : State) (address unit : Int) (action : Action), s.cfg.FrameOk →
    ((∀ b, s.rtx.txState ≠ .opened b) →
      exec (.rtxTransmit address unit action) s = .next (s.rtxAnswer .closed .none)) ∧
    (∀ b, s.rtx.txState = .opened b → 1 ≤ b.retries →
      (address < 0 ∨ 2 ^ s.cfg.addrBits ≤ address →
        exec (.rtxTransmit address unit action) s = .next (s.rtxAnswer .invalidAddress .none)) ∧
      (0 ≤ address ∧ address < 2 ^ s.cfg.addrBits → unit < 1 ∨ 5 < unit →
        exec (.rtxTransmit address unit action) s = .next (s.rtxAnswer .invalidUnit .none)) ∧
      (0 ≤ address ∧ address < 2 ^ s.cfg.addrBits → 1 ≤ unit ∧ unit ≤ 5 →
        ∃ a code, a.length = s.cfg.addrBits ∧ (numberOfBits a : Int) = address ∧
          s.cfg.unitCode[(unit - 1).toNat]? = some code ∧
          exec (.rtxTransmit address unit action) s =
            .next (s.rtxSent
              (List.replicate b.retries
                (bitEvents s.cfg (frameOf s.cfg a code action) ++ [.wait s.cfg.tSettle])).flatten
              b .ok .none)))

/-- 42 R180: TRANSMIT_ALL: Closed and only that; else `tx_retries` squared copies of the frame of the ALL pair and its
idle; nothing else changes. -/
def Obligations.TransmitAllSendsRetriesSquaredFrames : Prop :=
  ∀ (s : State) (action : Action), s.cfg.Ok →
    ((∀ b, s.rtx.txState ≠ .opened b) →
      exec (.rtxTransmitAll action) s = .next (s.rtxAnswer .closed .none)) ∧
    (∀ b, s.rtx.txState = .opened b → 1 ≤ b.retries →
      ∃ a code, a.length = s.cfg.addrBits ∧ (numberOfBits a : Int) = s.cfg.allAddress ∧
        s.cfg.unitCode[(s.cfg.allUnit - 1).toNat]? = some code ∧
        exec (.rtxTransmitAll action) s =
          .next (s.rtxSent
            (List.replicate (b.retries * b.retries)
              (bitEvents s.cfg (frameOf s.cfg a code action) ++ [.wait s.cfg.tSettle])).flatten
            b .ok .none))

/-- 42 R177 (b), (d): `n` repetitions of a frame last `n` times FRAME_BITS bit periods and the settle idle (23000
microseconds each with the documented values); the rising edges are one a bit, one bit period apart, a repetition one
frame and one idle after the other. -/
def Obligations.RepetitionTiming : Prop :=
  ∀ (cfg : Config) (f : BitSequence) (n : Nat), cfg.TimingOk → f.length = cfg.frameBits →
    totalWait (repetitions cfg n f) = n * (cfg.frameBits * cfg.tBit + cfg.tSettle) ∧
      (cfg.DocumentedTiming → cfg.DocumentedFrame → totalWait (repetitions cfg n f) = n * 23000) ∧
      risingEdgesFrom 0 (wave (repetitions cfg n f)) =
        (List.range n).flatMap (fun k =>
          (List.range cfg.frameBits).map (fun i =>
            k * (cfg.frameBits * cfg.tBit + cfg.tSettle) + i * cfg.tBit))

/-- 42 R177 (c): the end marker being one 0 bit, in the waveform every frame ends with one LOW segment, its end bit's LOW
time merged with the idle, and no LOW time of a bit is longer than an end bit's. -/
def Obligations.FrameEndsInOneLongLow : Prop :=
  ∀ (cfg : Config) (a c : BitSequence) (action : Action) (n : Nat), cfg.TimingOk → cfg.endMark = [false] →
    wave (repetitions cfg n (frameOf cfg a c action)) =
        (List.replicate n
          ((frameOf cfg a c action).dropLast.flatMap (fun b => [(.high, high cfg b), (.low, low cfg b)])
            ++ [(.high, high cfg false), (.low, low cfg false + cfg.tSettle)])).flatten ∧
      ∀ b, low cfg b ≤ low cfg false

/-- 42 R184 (decisions D3, D8): CLOSE releases the pin of an open block and is final; elsewhere it does nothing. -/
def Obligations.CloseReleasesThePin : Prop :=
  ∀ s : State,
    (∀ b, s.rtx.txState = .opened b →
      exec .rtxClose s =
        .next { s with
          rtx := { s.rtx with
            txState := .closed
            txTrace := s.rtx.txTrace ++ [.release b.pin]
            pos := none
            latch := none
            rsp := some ⟨.ok, .none⟩ } }) ∧
    ((∀ b, s.rtx.txState ≠ .opened b) → exec .rtxClose s = .next (s.rtxAnswer .ok .none))

/-- 30_encoding R118 with 42 R176; that a frame image by itself sends one frame and its idle, under TRANSMIT's state check,
and that a code of no unit ends with InvalidUnit, is the model's choice (log 7). -/
def Obligations.FrameImageSendsOneFrame : Prop :=
  ∀ (s : State) (a c : BitSequence) (i : Instr) (action : Action), s.cfg.FrameOk →
    (i = .txOn a c ∧ action = .on ∨ i = .txOff a c ∧ action = .off) →
    ((∀ b, s.rtx.txState ≠ .opened b) → exec i s = .next (s.rtxAnswer .closed .none)) ∧
    (∀ b, s.rtx.txState = .opened b → c ∉ s.cfg.unitCode → exec i s = .next (s.rtxAnswer .invalidUnit .none)) ∧
    (∀ b, s.rtx.txState = .opened b → c ∈ s.cfg.unitCode →
      exec i s =
        .next (s.rtxSent (bitEvents s.cfg (frameOf s.cfg a c action) ++ [.wait s.cfg.tSettle]) b .ok .none))

/-- 00_scope R6, 70 R357: the tick-level sequencer, which stands beside the command as the model's choice (log 12),
clocked from the accepting cycle of a valid TRANSMIT or TRANSMIT_ALL, is busy until it responds and then is the block
the command leaves at the operation level, its trace included (when each event is appended: log 30; the accepted word
gone from the port: log 31). Where TICK divides every interval (log 21), the level of its line, clock by clock, is the
waveform of the command's events, and the clocks take their total time. -/
def Obligations.SequencerConformsToTheCommand : Prop :=
  ∀ (s t : State) (b : Binding) (w : PortWord) (i : Instr) (r0 : Rtx),
    s.cfg.Ok → s.rtx.Inv s.cfg → s.rtx.txState = .opened b → s.rtx.pos = none → 0 < s.cfg.tick →
    decodePortOf s.cfg .rtx w = .ok i → s.rtx.acceptTicked s.cfg w = some r0 → exec i (s.acceptRtx w) = .next t →
    ∃ n es, r0.ticks s.cfg n = t.rtx ∧ t.rtx.cmdReady = true ∧ (∀ k < n, (r0.ticks s.cfg k).cmdReady = false) ∧
      t.rtx.txTrace = s.rtx.txTrace ++ es ∧
      (0 < s.cfg.tSettle → s.cfg.tick ∣ s.cfg.tHigh0 → s.cfg.tick ∣ s.cfg.tHigh1 → s.cfg.tick ∣ s.cfg.tBit →
        s.cfg.tick ∣ s.cfg.tSettle →
        wave (r0.lineEvents s.cfg n) = wave es ∧ n * s.cfg.tick = totalWait es)

/-! ### SLP: lifecycle -/

/-- 43 R201, R210 (decisions D17, D20, D21, D22): CONNECT whose accesses succeed and whose line names the expected
firmware of a sufficient version becomes Active with the metadata of the line; nothing else changes. -/
def Obligations.ConnectBecomesActive : Prop :=
  ∀ (s : State) (l l' : Link) (raw : List Byte) (n : Nat),
    s.slp.scState = .connecting → Link.OkTimes 3 s.slp.link l → l.nextRead = (.line raw, l') →
    parseVersion (lineContent raw) = some (n, s.cfg.expectedCodename) → s.cfg.minVersion ≤ n →
    exec .slpConnect s =
      .next { s with
        slp := { s.slp with
          scState := .active { verStr := lineContent raw, verNum := n, codename := s.cfg.expectedCodename }
          portOpen := true
          slTrace := s.slp.slTrace ++
            [.opened, .wait s.cfg.tResetSettle, .tx 0x60, .flush, .rx (.line (lineContent raw))]
          link := l'
          latch := none
          rsp := some ⟨.ok, .none⟩ } }

/-- 43 R201, R209, R210, 60 R312 (decisions D17, D19, D20, D28): the failures of CONNECT in their order: each ends
Inactive, the transport closed if it was opened, the events up to the failure kept; nothing else changes. -/
def Obligations.ConnectFailuresEndInactive : Prop :=
  ∀ (s : State) (l1 l2 l3 l4 : Link), s.slp.scState = .connecting →
    (s.slp.link.nextIo = (.fail, l1) → exec .slpConnect s = .next (s.slpDied [] s.slp.portOpen l1 .ioFailure)) ∧
    (s.slp.link.nextIo = (.ok, l1) →
      (l1.nextIo = (.fail, l2) →
        exec .slpConnect s = .next (s.slpDied [.opened, .wait s.cfg.tResetSettle] true l2 .ioFailure)) ∧
      (l1.nextIo = (.ok, l2) →
        (l2.nextIo = (.fail, l3) →
          exec .slpConnect s =
            .next (s.slpDied [.opened, .wait s.cfg.tResetSettle, .tx 0x60] true l3 .ioFailure)) ∧
        (l2.nextIo = (.ok, l3) →
          (l3.nextRead = (.timeout, l4) →
            exec .slpConnect s =
              .next (s.slpDied [.opened, .wait s.cfg.tResetSettle, .tx 0x60, .flush, .rx .timeout] true l4
                .ioTimeout)) ∧
          (l3.nextRead = (.fail, l4) →
            exec .slpConnect s =
              .next (s.slpDied [.opened, .wait s.cfg.tResetSettle, .tx 0x60, .flush, .rx .fail] true l4
                .ioFailure)) ∧
          (∀ raw, l3.nextRead = (.line raw, l4) →
            (parseVersion (lineContent raw) = none ∨
                (∃ n cn, parseVersion (lineContent raw) = some (n, cn) ∧ cn ≠ s.cfg.expectedCodename) →
              exec .slpConnect s =
                .next (s.slpDied
                  [.opened, .wait s.cfg.tResetSettle, .tx 0x60, .flush, .rx (.line (lineContent raw))] true l4
                  .invalidFirmware)) ∧
            (∀ n, parseVersion (lineContent raw) = some (n, s.cfg.expectedCodename) → n < s.cfg.minVersion →
              exec .slpConnect s =
                .next (s.slpDied
                  [.opened, .wait s.cfg.tResetSettle, .tx 0x60, .flush, .rx (.line (lineContent raw))] true l4
                  .unsupportedVersion))))))

/-- 30_encoding R118 with 43 R201, R210 (decision D17); that the query image alone runs CONNECT's rule, opening the
transport where it is not open yet, is the model's choice (log 6). It completes as CONNECT does, and where the transport
is not open yet it is CONNECT in every case. -/
def Obligations.QueryImageCompletesTheHandshake : Prop :=
  (∀ s : State, s.slp.portOpen = false → exec .wQueryVersion s = exec .slpConnect s) ∧
  ∀ (s : State) (l l' : Link) (raw : List Byte) (n : Nat),
    s.slp.scState = .connecting → Link.OkTimes (if s.slp.portOpen then 2 else 3) s.slp.link l →
    l.nextRead = (.line raw, l') →
    parseVersion (lineContent raw) = some (n, s.cfg.expectedCodename) → s.cfg.minVersion ≤ n →
    exec .wQueryVersion s =
      .next { s with
        slp := { s.slp with
          scState := .active { verStr := lineContent raw, verNum := n, codename := s.cfg.expectedCodename }
          portOpen := true
          slTrace := s.slp.slTrace ++ (if s.slp.portOpen then [] else [.opened, .wait s.cfg.tResetSettle]) ++
            [.tx 0x60, .flush, .rx (.line (lineContent raw))]
          link := l'
          latch := none
          rsp := some ⟨.ok, .none⟩ } }

/-- 43 R200 with 93 U4 (decision D29): CONNECT is refused in Active; that its wire image by itself is refused there as well
is the model's choice (log 6). -/
def Obligations.ConnectIsRefusedWhileActive : Prop :=
  ∀ (s : State) (fw : Firmware), s.slp.scState = .active fw →
    exec .slpConnect s = .refused .connectWhileActive ∧ exec .wQueryVersion s = .refused .connectWhileActive

/-- 43 R206, R207 (decisions D21, D30): the version reads answer the cached metadata; nothing else changes. -/
def Obligations.VersionReadsAnswerTheCache : Prop :=
  ∀ (s : State) (fw : Firmware), s.slp.scState = .active fw →
    exec .slpGetVersion s = .next (s.slpAnswer .ok (.bytes fw.verStr)) ∧
      exec .slpGetVersionNumber s = .next (s.slpAnswer .ok (.number fw.verNum))

/-- 43 R208 (decisions D28, D29): CLOSE of an Active block ends Inactive with one Close event; elsewhere it does
nothing. -/
def Obligations.SlpCloseReleasesTheTransport : Prop :=
  ∀ s : State,
    (∀ fw, s.slp.scState = .active fw → exec .slpClose s = .next (s.slpDied [] s.slp.portOpen s.slp.link .ok)) ∧
    ((∀ fw, s.slp.scState ≠ .active fw) → exec .slpClose s = .next (s.slpAnswer .ok .none))

/-- 60 R296: `Inactive` is the status of every SLP command except CLOSE while not Active, and of CONNECT while Inactive;
before any event, the state unchanged. That a wire image by itself ends so too, W.QUERY_VERSION as CONNECT and every other
one as a command, is the model's choice (log 6). -/
def Obligations.CommandsFailWhileNotActive : Prop :=
  ∀ (s : State) (i : Instr), i.onSlp = true → i ≠ .slpClose →
    (i ≠ .slpConnect → i ≠ .wQueryVersion → (∀ fw, s.slp.scState ≠ .active fw) →
      exec i s = .next (s.slpAnswer .inactive .none)) ∧
    (i = .slpConnect ∨ i = .wQueryVersion → s.slp.scState = .inactive →
      exec i s = .next (s.slpAnswer .inactive .none))

/-! ### SLP: pins -/

/-- 44 R231: SET_DIGITAL: Inactive, then InvalidPin before any byte, else the one byte of the pin and value; no line is
read and no state is written. A failed write or flush ends Inactive with the events up to it and one Close (43 R209,
R210, 60 R303; decisions D17, D19, D28). -/
def Obligations.SetDigitalWritesOneByte : Prop :=
  ∀ (s : State) (pin : Int) (value : Bit),
    ((∀ fw, s.slp.scState ≠ .active fw) →
      exec (.slpSetDigital pin value) s = .next (s.slpAnswer .inactive .none)) ∧
    (∀ fw, s.slp.scState = .active fw →
      (pin < s.cfg.dpinMin ∨ s.cfg.dpinMax < pin → exec (.slpSetDigital pin value) s = .next (s.slpAnswer .invalidPin .none)) ∧
      (s.cfg.dpinMin ≤ pin ∧ pin ≤ s.cfg.dpinMax → ∀ b : Byte, (b.toNat : Int) = (if value then 0x41 else 0x61) + pin →
        (∀ l, Link.OkTimes 2 s.slp.link l →
          exec (.slpSetDigital pin value) s = .next (s.slpSent [.tx b, .flush] l .ok .none)) ∧
        (∀ l, s.slp.link.nextIo = (.fail, l) →
          exec (.slpSetDigital pin value) s = .next (s.slpDied [] s.slp.portOpen l .ioFailure)) ∧
        (∀ l l', s.slp.link.nextIo = (.ok, l) → l.nextIo = (.fail, l') →
          exec (.slpSetDigital pin value) s = .next (s.slpDied [.tx b] s.slp.portOpen l' .ioFailure))))

/-- 44 R233: READ_DIGITAL: Inactive, else the query byte, one line of any content, the decoded mapping; no state is
written; a failure ends Inactive with the events up to it and one Close (43 R209, R210, 60 R303; decisions D17, D19,
D28). -/
def Obligations.ReadDigitalDecodesTheLine : Prop :=
  ∀ s : State,
    ((∀ fw, s.slp.scState ≠ .active fw) → exec .slpReadDigital s = .next (s.slpAnswer .inactive .none)) ∧
    (∀ fw, s.slp.scState = .active fw →
      (∀ l, s.slp.link.nextIo = (.fail, l) →
        exec .slpReadDigital s = .next (s.slpDied [] s.slp.portOpen l .ioFailure)) ∧
      (∀ l l', s.slp.link.nextIo = (.ok, l) → l.nextIo = (.fail, l') →
        exec .slpReadDigital s = .next (s.slpDied [.tx 0x3F] s.slp.portOpen l' .ioFailure)) ∧
      (∀ l l', Link.OkTimes 2 s.slp.link l →
        (∀ raw, l.nextRead = (.line raw, l') →
          exec .slpReadDigital s =
            .next (s.slpSent [.tx 0x3F, .flush, .rx (.line (lineContent raw))] l' .ok
              (.pins (decodePinState s.cfg (lineContent raw))))) ∧
        (l.nextRead = (.timeout, l') →
          exec .slpReadDigital s =
            .next (s.slpDied [.tx 0x3F, .flush, .rx .timeout] s.slp.portOpen l' .ioTimeout)) ∧
        (l.nextRead = (.fail, l') →
          exec .slpReadDigital s =
            .next (s.slpDied [.tx 0x3F, .flush, .rx .fail] s.slp.portOpen l' .ioFailure))))

/-- 44 R236, 43 R210 (decisions D17, D24): READ_ANALOG, and its wire image (log 6): the pin's byte, one line; a numeral
up to ANALOG_MAX is the result, any other line ends Inactive with MalformedResponse; a bad pin ends with InvalidPin
before any byte. -/
def Obligations.ReadAnalogAnswersTheNumeral : Prop :=
  ∀ (s : State) (fw : Firmware) (pin : Int) (i : Instr),
    i = .slpReadAnalog pin ∨ (0 ≤ pin ∧ i = .wReadAnalog pin.toNat) → s.slp.scState = .active fw →
    (pin < s.cfg.apinMin ∨ s.cfg.apinMax < pin → exec i s = .next (s.slpAnswer .invalidPin .none)) ∧
    (s.cfg.apinMin ≤ pin ∧ pin ≤ s.cfg.apinMax → ∀ (b : Byte) (l l' : Link) (raw : List Byte), (b.toNat : Int) = 0x30 + pin →
      Link.OkTimes 2 s.slp.link l → l.nextRead = (.line raw, l') →
      (∀ v, parseInt (lineContent raw) = some v → v ≤ s.cfg.analogMax →
        exec i s =
          .next (s.slpSent [.tx b, .flush, .rx (.line (lineContent raw))] l' .ok (.number v))) ∧
      (parseInt (lineContent raw) = none ∨ (∃ v, parseInt (lineContent raw) = some v ∧ s.cfg.analogMax < v) →
        exec i s =
          .next (s.slpDied [.tx b, .flush, .rx (.line (lineContent raw))] s.slp.portOpen l' .malformedResponse)))

/-! ### SLP: the remote store -/

/-- 45 R261, 43 R210 (decisions D17, D27): GET_NAME, and its wire image (log 6): the content of the line as received, of
any length; no state is written. -/
def Obligations.GetNameAnswersTheLine : Prop :=
  ∀ (s : State) (fw : Firmware) (l l' : Link) (raw : List Byte) (i : Instr),
    i = .slpGetName ∨ i = .wReadName →
    s.slp.scState = .active fw → s.cfg.vName ≤ fw.verNum → Link.OkTimes 2 s.slp.link l →
    l.nextRead = (.line raw, l') →
    exec i s =
      .next (s.slpSent [.tx 0x3D, .flush, .rx (.line (lineContent raw))] l' .ok (.bytes (lineContent raw)))

/-- 45 R263, 43 R210 (decision D17): STORE_NAME: `#` and the name, then the read-back; OK exactly when the line's
content is the name, else NameMismatch, Active still; below the version UnsupportedVersion with no event. -/
def Obligations.StoreNameVerifiesByReadingBack : Prop :=
  ∀ (s : State) (fw : Firmware) (name : NameBytes), s.slp.scState = .active fw →
    (fw.verNum < s.cfg.vName →
      exec (.slpStoreName name) s = .next (s.slpAnswer .unsupportedVersion .none)) ∧
    (∀ (l l' : Link) (raw : List Byte), s.cfg.vName ≤ fw.verNum → Link.OkTimes 4 s.slp.link l →
      l.nextRead = (.line raw, l') →
      exec (.slpStoreName name) s =
        .next (s.slpSent
          (.tx 0x23 :: name.map .tx ++ [.flush, .tx 0x3D, .flush, .rx (.line (lineContent raw))]) l'
          (if lineContent raw = name then .ok else .nameMismatch) .none))

/-- 45 R263, 43 R210, 60 R299, R300 (decisions D17, D19, D28): the I/O failures of STORE_NAME's four writes and flushes
and of its read: each ends Inactive with the events up to it. -/
def Obligations.StoreNameFailuresEndInactive : Prop :=
  ∀ (s : State) (fw : Firmware) (name : NameBytes) (l l' : Link), s.slp.scState = .active fw →
    s.cfg.vName ≤ fw.verNum →
    (∀ n es, (n, es) ∈
        [(0, []), (1, .tx 0x23 :: name.map .tx), (2, .tx 0x23 :: name.map .tx ++ [.flush]),
          (3, .tx 0x23 :: name.map .tx ++ [.flush, .tx 0x3D])] →
      Link.OkTimes n s.slp.link l → l.nextIo = (.fail, l') →
      exec (.slpStoreName name) s = .next (s.slpDied es s.slp.portOpen l' .ioFailure)) ∧
    (Link.OkTimes 4 s.slp.link l →
      (l.nextRead = (.timeout, l') →
        exec (.slpStoreName name) s =
          .next (s.slpDied (.tx 0x23 :: name.map .tx ++ [.flush, .tx 0x3D, .flush, .rx .timeout])
            s.slp.portOpen l' .ioTimeout)) ∧
      (l.nextRead = (.fail, l') →
        exec (.slpStoreName name) s =
          .next (s.slpDied (.tx 0x23 :: name.map .tx ++ [.flush, .tx 0x3D, .flush, .rx .fail])
            s.slp.portOpen l' .ioFailure)))

/-- 45 R265: SAVE_POWER_ON: Inactive, then UnsupportedVersion, else one byte and no line; no state is written. A failed
write or flush ends Inactive with the events up to it and one Close (43 R209, R210, 60 R303; decisions D17, D19, D28). -/
def Obligations.SavePowerOnWritesOneByte : Prop :=
  ∀ s : State,
    ((∀ fw, s.slp.scState ≠ .active fw) → exec .slpSavePowerOn s = .next (s.slpAnswer .inactive .none)) ∧
    (∀ fw, s.slp.scState = .active fw →
      (fw.verNum < s.cfg.vSavePo → exec .slpSavePowerOn s = .next (s.slpAnswer .unsupportedVersion .none)) ∧
      (s.cfg.vSavePo ≤ fw.verNum →
        (∀ l, Link.OkTimes 2 s.slp.link l →
          exec .slpSavePowerOn s = .next (s.slpSent [.tx 0x2B, .flush] l .ok .none)) ∧
        (∀ l, s.slp.link.nextIo = (.fail, l) →
          exec .slpSavePowerOn s = .next (s.slpDied [] s.slp.portOpen l .ioFailure)) ∧
        (∀ l l', s.slp.link.nextIo = (.ok, l) → l.nextIo = (.fail, l') →
          exec .slpSavePowerOn s = .next (s.slpDied [.tx 0x2B] s.slp.portOpen l' .ioFailure))))

/-- 45 R267: READ_POWER_ON: Inactive, then UnsupportedVersion below V_READ_PO with no byte, else the byte, one line, the
decoded mapping; no state is written; a failure ends Inactive with the events up to it and one Close (43 R209, R210, 60
R303; decisions D17, D19, D28). -/
def Obligations.ReadPowerOnNeedsItsVersion : Prop :=
  ∀ s : State,
    ((∀ fw, s.slp.scState ≠ .active fw) → exec .slpReadPowerOn s = .next (s.slpAnswer .inactive .none)) ∧
    (∀ fw, s.slp.scState = .active fw →
      (fw.verNum < s.cfg.vReadPo → exec .slpReadPowerOn s = .next (s.slpAnswer .unsupportedVersion .none)) ∧
      (s.cfg.vReadPo ≤ fw.verNum →
        (∀ l, s.slp.link.nextIo = (.fail, l) →
          exec .slpReadPowerOn s = .next (s.slpDied [] s.slp.portOpen l .ioFailure)) ∧
        (∀ l l', s.slp.link.nextIo = (.ok, l) → l.nextIo = (.fail, l') →
          exec .slpReadPowerOn s = .next (s.slpDied [.tx 0x2D] s.slp.portOpen l' .ioFailure)) ∧
        (∀ l l', Link.OkTimes 2 s.slp.link l →
          (∀ raw, l.nextRead = (.line raw, l') →
            exec .slpReadPowerOn s =
              .next (s.slpSent [.tx 0x2D, .flush, .rx (.line (lineContent raw))] l' .ok
                (.pins (decodePinState s.cfg (lineContent raw))))) ∧
          (l.nextRead = (.timeout, l') →
            exec .slpReadPowerOn s =
              .next (s.slpDied [.tx 0x2D, .flush, .rx .timeout] s.slp.portOpen l' .ioTimeout)) ∧
          (l.nextRead = (.fail, l') →
            exec .slpReadPowerOn s =
              .next (s.slpDied [.tx 0x2D, .flush, .rx .fail] s.slp.portOpen l' .ioFailure)))))

/-- 30_encoding R118 with 44 R233, 45 R267, 43 R210 (decision D17): that W.READ_DIGITAL and W.READ_POWER_ON by
themselves run their command, with its guards, is the model's choice (log 6). -/
def Obligations.PinQueryImagesAnswerTheLine : Prop :=
  ∀ (s : State) (fw : Firmware) (l l' : Link) (raw : List Byte) (i : Instr) (b : Byte) (v : Nat),
    i = .wReadDigital ∧ b = 0x3F ∧ v = 0 ∨ i = .wReadPowerOn ∧ b = 0x2D ∧ v = s.cfg.vReadPo →
    s.slp.scState = .active fw → v ≤ fw.verNum → Link.OkTimes 2 s.slp.link l → l.nextRead = (.line raw, l') →
    exec i s =
      .next (s.slpSent [.tx b, .flush, .rx (.line (lineContent raw))] l' .ok
        (.pins (decodePinState s.cfg (lineContent raw))))

/-- 45 R260, 60 R297 (decision D23; the wire images log 6): an Active command below the version it needs ends with
UnsupportedVersion; no event, the state unchanged. -/
def Obligations.VersionGatesChangeNothing : Prop :=
  ∀ (s : State) (fw : Firmware) (name : NameBytes), s.slp.scState = .active fw →
    (∀ i ∈ [Instr.slpGetName, .slpStoreName name, .wReadName, .wStoreName name], fw.verNum < s.cfg.vName →
      exec i s = .next (s.slpAnswer .unsupportedVersion .none)) ∧
    (∀ i ∈ [Instr.slpSavePowerOn, .wSavePowerOn], fw.verNum < s.cfg.vSavePo →
      exec i s = .next (s.slpAnswer .unsupportedVersion .none)) ∧
    (∀ i ∈ [Instr.slpReadPowerOn, .wReadPowerOn], fw.verNum < s.cfg.vReadPo →
      exec i s = .next (s.slpAnswer .unsupportedVersion .none))

/-- 30_encoding R93, R102, 44 R231, 45 R260, R265: a command that only writes, in Active and at its version, writes its
bytes and one flush (43 R210, 20_memory R78: the spec's decision D17), reads no line and changes no state. That the wire
images W.SET_HIGH, W.SET_LOW, W.SAVE_POWER_ON and W.STORE_NAME by themselves do so is the model's choice (log 6). -/
def Obligations.WriteCommandsSendTheirBytes : Prop :=
  ∀ (s : State) (fw : Firmware) (i : Instr) (bs : List Byte) (v : Nat) (l : Link),
    writeCommand s.cfg i = some (bs, v) → s.slp.scState = .active fw → v ≤ fw.verNum →
    Link.OkTimes 2 s.slp.link l →
    exec i s = .next (s.slpSent (bs.map .tx ++ [.flush]) l .ok .none)

/-- 43 R209, R210, 60 R300, R303 (decisions D17, D19, D28): a failed write or flush of a command that only writes ends it
Inactive with IoFailure, the events up to it and one Close. That the wire images W.SET_HIGH, W.SET_LOW, W.SAVE_POWER_ON and
W.STORE_NAME by themselves do so is the model's choice (log 6). -/
def Obligations.WriteCommandFailuresEndInactive : Prop :=
  ∀ (s : State) (fw : Firmware) (i : Instr) (bs : List Byte) (v : Nat) (l1 l2 : Link),
    writeCommand s.cfg i = some (bs, v) → s.slp.scState = .active fw → v ≤ fw.verNum →
    (s.slp.link.nextIo = (.fail, l1) → exec i s = .next (s.slpDied [] s.slp.portOpen l1 .ioFailure)) ∧
    (s.slp.link.nextIo = (.ok, l1) → l1.nextIo = (.fail, l2) →
      exec i s = .next (s.slpDied (bs.map .tx) s.slp.portOpen l2 .ioFailure))

/-- 43 R209, R210, 60 R299, R300, R303 (decisions D17, D19, D28; the wire images log 6): the failures of a command of one
byte and one line: each ends Inactive, IoTimeout for a timeout, else IoFailure, with the events up to it, one Close. -/
def Obligations.LineCommandFailuresEndInactive : Prop :=
  ∀ (s : State) (fw : Firmware) (i : Instr) (b : Byte) (v : Nat) (l1 l2 l3 : Link),
    lineCommand s.cfg i = some (b, v) → s.slp.scState = .active fw → v ≤ fw.verNum →
    (s.slp.link.nextIo = (.fail, l1) → exec i s = .next (s.slpDied [] s.slp.portOpen l1 .ioFailure)) ∧
    (s.slp.link.nextIo = (.ok, l1) →
      (l1.nextIo = (.fail, l2) → exec i s = .next (s.slpDied [.tx b] s.slp.portOpen l2 .ioFailure)) ∧
      (l1.nextIo = (.ok, l2) →
        (l2.nextRead = (.timeout, l3) →
          exec i s = .next (s.slpDied [.tx b, .flush, .rx .timeout] s.slp.portOpen l3 .ioTimeout)) ∧
        (l2.nextRead = (.fail, l3) →
          exec i s = .next (s.slpDied [.tx b, .flush, .rx .fail] s.slp.portOpen l3 .ioFailure))))

/-- 45 R264: a name with a line feed can never be read back equal, whatever the remote end answers. -/
def Obligations.NameWithLineFeedNeverVerifies : Prop :=
  ∀ (s t : State) (name : NameBytes) (r : Response), (0x0A : Byte) ∈ name →
    exec (.slpStoreName name) s = .next t → t.slp.rsp = some r → r.status ≠ .ok

/-! ### Readers of response lines -/

/-- 20_memory R73: the content of a line is what stands before the first line feed, less one carriage return at its end,
and holds no line feed. -/
def Obligations.LineContentEndsAtTheLineFeed : Prop :=
  (∀ c rest : List Byte, 0x0A ∉ c → c.getLast? ≠ some 0x0D → lineContent (c ++ 0x0A :: rest) = c) ∧
    (∀ c rest : List Byte, 0x0A ∉ c → lineContent (c ++ 0x0D :: 0x0A :: rest) = c) ∧
    (∀ raw : List Byte, 0x0A ∉ lineContent raw)

/-- 43 R204 (decision D20): ParseVersion accepts exactly `V`, one or more digits, `_` and any rest. -/
def Obligations.VersionLineGrammar : Prop :=
  ∀ (bs cn : List Byte) (n : Nat),
    parseVersion bs = some (n, cn) ↔
      ∃ digits : List Byte, digits ≠ [] ∧ (∀ d ∈ digits, 0x30 ≤ d.toNat ∧ d.toNat ≤ 0x39) ∧
        bs = 0x56 :: (digits ++ 0x5F :: cn) ∧ n = Nat.ofDigits 10 (digits.reverse.map fun d => d.toNat - 0x30)

/-- 44 R237, 30 R107 (decision D25): ParseInt answers the value of the decimal numeral, leading zeros ignored, and nothing
where some byte is no digit or there is none. -/
def Obligations.IntegerLineGrammar : Prop :=
  (∀ n k : Nat, 0 < n →
    parseInt (List.replicate k 0x30 ++ (Nat.digits 10 n).reverse.map fun d => BitVec.ofNat 8 (0x30 + d)) = some n) ∧
  (∀ k : Nat, parseInt (List.replicate (k + 1) 0x30) = some 0) ∧
  (∀ bs : List Byte, bs = [] ∨ (∃ b ∈ bs, b.toNat < 0x30 ∨ 0x39 < b.toNat) → parseInt bs = none)

/-- 30_encoding R113: in a pin-state line a byte that is none of the state letters carries nothing, wherever it stands. -/
def Obligations.UnrecognisedBytesAreIgnored : Prop :=
  ∀ (cfg : Config) (xs ys : List Byte) (b : Byte),
    (∀ pin, cfg.dpinMin ≤ pin → pin ≤ cfg.dpinMax → b.toNat ≠ 0x41 + pin ∧ b.toNat ≠ 0x61 + pin) →
    decodePinState cfg (xs ++ b :: ys) = decodePinState cfg (xs ++ ys)

/-- 44 R234 (decision D26): the last state letter of a pin decides its value; a pin without a letter is no key, nor is a
number that is no digital pin. That a mapping is a list whose keys stand in one order, so that equal mappings are equal,
is the model's representation (log 23). -/
def Obligations.LastStateLetterDecides : Prop :=
  ∀ (cfg : Config) (bs : List Byte) (pin : Nat), cfg.WireOk →
    (cfg.dpinMin ≤ pin ∧ pin ≤ cfg.dpinMax →
      (decodePinState cfg bs).get pin =
        ((bs.filter fun b => b.toNat = 0x41 + pin ∨ b.toNat = 0x61 + pin).getLast?).map fun b =>
          decide (b.toNat = 0x41 + pin)) ∧
    (pin < cfg.dpinMin ∨ cfg.dpinMax < pin → (decodePinState cfg bs).get pin = none) ∧
    (decodePinState cfg bs).wf

/-- 44 R235 (b): the line of a full mapping, one letter a pin in ascending order, decodes back to it; the letter that sets
a pin to a value is the letter that reports it. -/
def Obligations.PinLineRoundTrip : Prop :=
  ∀ (cfg : Config) (value : Nat → Bit) (pin : Nat), cfg.WireOk → cfg.dpinMin ≤ pin → pin ≤ cfg.dpinMax →
    (decodePinState cfg (pinLine cfg value)).get pin = some (value pin) ∧
      (pinLine cfg value)[pin - cfg.dpinMin]? = some (setDigitalByte pin (value pin))

/-! ### The machine -/

/-- 60 R311: a command that ends with one of the statuses 1 to 7 from a check (everything except the handshake's own
UnsupportedVersion) appended nothing and changed no state. -/
def Obligations.EarlyErrorsChangeNothing : Prop :=
  ∀ (s t : State) (i : Instr), exec i s = .next t →
    (i.portBlock = some .rtx → ∀ r, t.rtx.rsp = some r → 1 ≤ r.status.code ∧ r.status.code ≤ 7 →
      t = s.rtxAnswer r.status .none) ∧
    (i.portBlock = some .slp → ∀ r, t.slp.rsp = some r → 1 ≤ r.status.code ∧ r.status.code ≤ 7 →
      (r.status = .unsupportedVersion → s.slp.scState ≠ .connecting) → t = s.slpAnswer r.status .none)

/-- 60 R305: a command ends with one of the statuses its row of the table allows, and with a result only where it is OK
(for images and micro-operations, logs 6 to 8). -/
def Obligations.StatusesOfEachCommand : Prop :=
  ∀ (s t : State) (i : Instr), s.cfg.Ok → exec i s = .next t →
    ∃ r, (if i.onSlp then t.slp.rsp else t.rtx.rsp) = some r ∧ r.status ∈ allowedStatuses i ∧
      (r.status ≠ .ok → r.result = .none)

/-- 20_memory R76, 60 R313: an instruction of one block leaves the other block, the constants and the inputs as they
were, and its own block's port input and reset input too. -/
def Obligations.InstructionsStayInTheirBlock : Prop :=
  ∀ (s t : State) (i : Instr), exec i s = .next t →
    t.cfg = s.cfg ∧ t.image = s.image ∧ t.turn = s.turn ∧
      t.rtx.cmd = s.rtx.cmd ∧ t.rtx.rst = s.rtx.rst ∧ t.slp.cmd = s.slp.cmd ∧ t.slp.rst = s.slp.rst ∧
      (i.onSlp = false → t.slp = s.slp) ∧ (i.onSlp = true → t.rtx = s.rtx)

/-- 20_memory R76: no claim may depend on the order of the two blocks: an RTX and an SLP instruction end in one state in
either order. -/
def Obligations.BlocksCommute : Prop :=
  ∀ (s t1 t2 : State) (i j : Instr), i.onSlp = false → j.onSlp = true →
    exec i s = .next t1 → exec j s = .next t2 → ∃ t, exec j t1 = .next t ∧ exec i t2 = .next t

/-- 10_state R22: no step changes the constant store. -/
def Obligations.ConstantsNeverChange : Prop :=
  ∀ s t : State, step s = .next t → t.cfg = s.cfg

/-- 20_memory R75, 10_state R20, R30: without a reset a step only appends to the traces. -/
def Obligations.TracesOnlyGrow : Prop :=
  ∀ s t : State, s.NotReset → step s = .next t →
    s.rtx.txTrace <+: t.rtx.txTrace ∧ s.slp.slTrace <+: t.slp.slTrace

/-- 10_state R20, R30, 42 R171, 43 R202 (decisions D2, D29): Closed and Inactive are terminal, only a reset leaves them;
while Open `tx_pin` and `tx_retries` do not change: a step keeps them or ends Closed; while Active the metadata does not
change: a step keeps it or ends Inactive. -/
def Obligations.LifecyclesMoveForward : Prop :=
  ∀ s t : State, s.NotReset → step s = .next t →
    (s.rtx.txState = .closed → t.rtx.txState = .closed ∧ t.rtx.lineOe = false) ∧
      (∀ b, s.rtx.txState = .opened b →
        t.rtx.txState = .closed ∨ ∃ l, t.rtx.txState = .opened { b with line := l }) ∧
      (s.slp.scState = .inactive → t.slp.scState = .inactive) ∧
      (∀ fw, s.slp.scState = .active fw → t.slp.scState = .active fw ∨ t.slp.scState = .inactive)

/-- The invariant holds after reset. -/
def Obligations.InvariantHoldsAtReset : Prop := State.reset.Inv

/-- 10_state R20, R21, R23, R34, 43 R202, R209, 70 R357: every step keeps the invariant. -/
def Obligations.EveryStepKeepsTheInvariant : Prop :=
  ∀ s t : State, s.Inv → step s = .next t → t.Inv

/-- 10_state R35, 70 R348 (what step adds around exec: logs 5, 9, 10, 12, 29, 31): a word presented at the port of a
block with no position and nothing latched, the other block unable to move or `turn` choosing this one, is accepted and
runs as the instruction it decodes to, on the state with the word latched and gone from its port (the latter log 31); a
word that is no command of its port is refused; a running transmission takes a clock; where neither block can move an
image of the slot runs, and an idle machine stays. -/
def Obligations.StepRunsWhatIsPresented : Prop :=
  ∀ s : State, s.NotReset →
    (∀ w, s.rtx.pos = none → s.rtx.latch = none → s.rtx.cmd = some w →
      s.slp.cmd = none ∨ s.slp.latch ≠ none ∨ s.turn = .rtx →
      (∀ i, decodePortOf s.cfg .rtx w = .ok i →
        step s = exec i { s with rtx := { s.rtx with cmd := none, latch := some w } }) ∧
      (∀ e, decodePortOf s.cfg .rtx w = .error e → step s = .refused (.notAnInstruction e))) ∧
    (∀ p, s.rtx.pos = some p → s.slp.cmd = none ∨ s.slp.latch ≠ none ∨ s.turn = .rtx →
      step s = .next { s with rtx := s.rtx.tick s.cfg }) ∧
    (∀ w, s.slp.latch = none → s.slp.cmd = some w →
      s.rtx.pos = none ∧ (s.rtx.cmd = none ∨ s.rtx.latch ≠ none) ∨ s.turn = .slp →
      (∀ i, decodePortOf s.cfg .slp w = .ok i →
        step s = exec i { s with slp := { s.slp with cmd := none, latch := some w } }) ∧
      (∀ e, decodePortOf s.cfg .slp w = .error e → step s = .refused (.notAnInstruction e))) ∧
    (s.rtx.pos = none → s.rtx.cmd = none ∨ s.rtx.latch ≠ none → s.slp.cmd = none ∨ s.slp.latch ≠ none →
      (∀ im i, s.image = some im → decode s.cfg im = .ok i → step s = exec i { s with image := none }) ∧
      (∀ im e, s.image = some im → decode s.cfg im = .error e → step s = .refused (.notAnInstruction e)) ∧
      (s.image = none → step s = .next s))

/-- 70 R340, R342 (decision D34; log 13): a raised reset input resets its block, and only that; in the middle of a command
the events already appended stay. -/
def Obligations.ResetInputsResetTheirBlock : Prop :=
  ∀ s : State, s.rtx.rst = true ∨ s.slp.rst = true →
    ∃ t, step s = .next t ∧ t.cfg = s.cfg ∧ t.image = s.image ∧ t.turn = s.turn ∧
      (s.rtx.rst = false → t.rtx = s.rtx) ∧ (s.slp.rst = false → t.slp = s.slp) ∧
      (s.rtx.rst = true →
        t.rtx = { Rtx.reset with
          cmd := s.rtx.cmd
          txTrace := if s.rtx.latch = none ∧ s.rtx.pos = none then [] else s.rtx.txTrace }) ∧
      (s.slp.rst = true →
        t.slp = { Slp.reset with
          cmd := s.slp.cmd
          link := s.slp.link
          slTrace := if s.slp.latch = none then [] else s.slp.slTrace })

/-! ### Encodings -/

/-- 30_encoding R91 to R93, R102, R103, R119: decoding an encoded well-formed instruction gives it back, under any
constants that keep the encodings apart (log 3). -/
def Obligations.DecodeOfEncodeIsTheInstruction : Prop :=
  ∀ (cfg : Config) (i : Instr), cfg.Ok → i.wf cfg = true → decode cfg (encode cfg i) = .ok i

/-- 30_encoding R109, R115: a stream of wire commands splits into them in exactly one way, under any constants that keep
the command bytes apart (log 3). -/
def Obligations.WireStreamSplitsIntoItsCommands : Prop :=
  ∀ (cfg : Config) (is : List Instr) (chunks : List (List Byte)), cfg.Ok →
    (∀ i ∈ is, i.wf cfg = true) → is.map (wireBytes cfg) = chunks.map some →
    decodeStream cfg chunks.flatten = .ok is

/-- 30_encoding R102, R103, R109, R112, R118, R119: a few words of the opcode table, written out from its encodings, decode
to what they stand for (which space a word of 8, 25 or 32 bits belongs to is the model's choice, log 24), and exactly 38
byte values begin a command SLP can send. -/
def Obligations.TableWordsDecode : Prop :=
  decodeTableWord 8 0x13 = some .rtxClose ∧ decodeTableWord 8 0x20 = some .slpConnect ∧
    decodeTableWord 8 0x4E = some (.wSetHigh 13) ∧ decodeTableWord 8 0x63 = some (.wSetLow 2) ∧
    decodeTableWord 8 0x37 = some (.wReadAnalog 7) ∧ decodeTableWord 8 0x41 = none ∧
    decodeTableWord 32 0x02B0026 =
      some (.txOn [false, false, false, true, false, true, false, true]
        [true, false, false, false, false, false, false, false, false, false, false, true]) ∧
    decodeTableWord 25 0x0AA4098 =
      some (.txOff [false, true, false, true, false, true, false, true]
        [false, false, true, false, false, false, false, false, false, true, false, false]) ∧
    decodeTableWord 8 1 = some .sym1 ∧
    ((List.range 256).filter fun n =>
      match decodeWire Config.platform (BitVec.ofNat 8 n :: List.replicate 16 0) with
      | .ok _ => true
      | .error _ => false).length = 38
end

