-- ==== Sys2Proof/Laws/State.lean ====
section
/-! SUPPORT. Laws.State: one lemma per field per update of the blocks and of the machine. -/

namespace Sys2Proof.Machine

/-! ### RTX: events -/

@[simp] theorem Rtx.emit_txState (es : List RtxEvent) (r : Rtx) : (r.emit es).txState = r.txState := rfl
@[simp] theorem Rtx.emit_txTrace (es : List RtxEvent) (r : Rtx) : (r.emit es).txTrace = r.txTrace ++ es := rfl
@[simp] theorem Rtx.emit_pos (es : List RtxEvent) (r : Rtx) : (r.emit es).pos = r.pos := rfl
@[simp] theorem Rtx.emit_cmd (es : List RtxEvent) (r : Rtx) : (r.emit es).cmd = r.cmd := rfl
@[simp] theorem Rtx.emit_latch (es : List RtxEvent) (r : Rtx) : (r.emit es).latch = r.latch := rfl
@[simp] theorem Rtx.emit_rsp (es : List RtxEvent) (r : Rtx) : (r.emit es).rsp = r.rsp := rfl
@[simp] theorem Rtx.emit_rst (es : List RtxEvent) (r : Rtx) : (r.emit es).rst = r.rst := rfl

/-! ### RTX: driving the line -/

@[simp] theorem Rtx.pinDrive_txState (l : Level) (r : Rtx) : (r.pinDrive l).txState = r.txState.setLine l := rfl
@[simp] theorem Rtx.pinDrive_txTrace (l : Level) (r : Rtx) : (r.pinDrive l).txTrace = r.txTrace ++ [.drive l] := rfl
@[simp] theorem Rtx.pinDrive_pos (l : Level) (r : Rtx) : (r.pinDrive l).pos = r.pos := rfl
@[simp] theorem Rtx.pinDrive_cmd (l : Level) (r : Rtx) : (r.pinDrive l).cmd = r.cmd := rfl
@[simp] theorem Rtx.pinDrive_latch (l : Level) (r : Rtx) : (r.pinDrive l).latch = r.latch := rfl
@[simp] theorem Rtx.pinDrive_rsp (l : Level) (r : Rtx) : (r.pinDrive l).rsp = r.rsp := rfl
@[simp] theorem Rtx.pinDrive_rst (l : Level) (r : Rtx) : (r.pinDrive l).rst = r.rst := rfl

@[simp] theorem TxState.setLine_opened (l : Level) (b : Binding) :
    TxState.setLine l (.opened b) = .opened { b with line := l } := rfl
@[simp] theorem TxState.setLine_unbound (l : Level) : TxState.setLine l .unbound = .unbound := rfl
@[simp] theorem TxState.setLine_closed (l : Level) : TxState.setLine l .closed = .closed := rfl
@[simp] theorem TxState.setLine_setLine (l l' : Level) (x : TxState) : (x.setLine l).setLine l' = x.setLine l' := by
  cases x <;> rfl

/-! ### RTX: the response -/

@[simp] theorem Rtx.respond_txState (st : Status) (v : Result) (r : Rtx) : (r.respond st v).txState = r.txState := rfl
@[simp] theorem Rtx.respond_txTrace (st : Status) (v : Result) (r : Rtx) : (r.respond st v).txTrace = r.txTrace := rfl
@[simp] theorem Rtx.respond_pos (st : Status) (v : Result) (r : Rtx) : (r.respond st v).pos = none := rfl
@[simp] theorem Rtx.respond_cmd (st : Status) (v : Result) (r : Rtx) : (r.respond st v).cmd = r.cmd := rfl
@[simp] theorem Rtx.respond_latch (st : Status) (v : Result) (r : Rtx) : (r.respond st v).latch = none := rfl
@[simp] theorem Rtx.respond_rsp (st : Status) (v : Result) (r : Rtx) : (r.respond st v).rsp = some ⟨st, v⟩ := rfl
@[simp] theorem Rtx.respond_rst (st : Status) (v : Result) (r : Rtx) : (r.respond st v).rst = r.rst := rfl

@[simp] theorem Rtx.finish_done (v : Result) (r : Rtx) : Rtx.finish (.done v r) = r.respond .ok v := rfl
@[simp] theorem Rtx.finish_raised (e : Status) (r : Rtx) : Rtx.finish (.raised e r) = r.respond e .none := rfl

/-! ### SLP -/

@[simp] theorem Slp.emit_scState (es : List SlpEvent) (t : Slp) : (t.emit es).scState = t.scState := rfl
@[simp] theorem Slp.emit_portOpen (es : List SlpEvent) (t : Slp) : (t.emit es).portOpen = t.portOpen := rfl
@[simp] theorem Slp.emit_slTrace (es : List SlpEvent) (t : Slp) : (t.emit es).slTrace = t.slTrace ++ es := rfl
@[simp] theorem Slp.emit_link (es : List SlpEvent) (t : Slp) : (t.emit es).link = t.link := rfl
@[simp] theorem Slp.emit_cmd (es : List SlpEvent) (t : Slp) : (t.emit es).cmd = t.cmd := rfl
@[simp] theorem Slp.emit_latch (es : List SlpEvent) (t : Slp) : (t.emit es).latch = t.latch := rfl
@[simp] theorem Slp.emit_rsp (es : List SlpEvent) (t : Slp) : (t.emit es).rsp = t.rsp := rfl
@[simp] theorem Slp.emit_rst (es : List SlpEvent) (t : Slp) : (t.emit es).rst = t.rst := rfl

@[simp] theorem Slp.respond_scState (st : Status) (v : Result) (t : Slp) : (t.respond st v).scState = t.scState := rfl
@[simp] theorem Slp.respond_portOpen (st : Status) (v : Result) (t : Slp) : (t.respond st v).portOpen = t.portOpen := rfl
@[simp] theorem Slp.respond_slTrace (st : Status) (v : Result) (t : Slp) : (t.respond st v).slTrace = t.slTrace := rfl
@[simp] theorem Slp.respond_link (st : Status) (v : Result) (t : Slp) : (t.respond st v).link = t.link := rfl
@[simp] theorem Slp.respond_cmd (st : Status) (v : Result) (t : Slp) : (t.respond st v).cmd = t.cmd := rfl
@[simp] theorem Slp.respond_latch (st : Status) (v : Result) (t : Slp) : (t.respond st v).latch = none := rfl
@[simp] theorem Slp.respond_rsp (st : Status) (v : Result) (t : Slp) : (t.respond st v).rsp = some ⟨st, v⟩ := rfl
@[simp] theorem Slp.respond_rst (st : Status) (v : Result) (t : Slp) : (t.respond st v).rst = t.rst := rfl

@[simp] theorem Slp.finish_done (v : Result) (t : Slp) : Slp.finish (.done v t) = t.respond .ok v := rfl
@[simp] theorem Slp.finish_raised (e : Status) (t : Slp) : Slp.finish (.raised e t) = t.respond e .none := rfl

/-- `GoInactive` as one record (43 R209). -/
theorem Slp.goInactive_eq (t : Slp) :
    t.goInactive =
      { t with
        scState := .inactive
        portOpen := false
        slTrace := t.slTrace ++ (if t.portOpen then [.closed] else []) } := by
  cases t with
  | mk sc held tr l c la r rst => cases held <;> simp [Slp.goInactive, Slp.serClose, Slp.emit]

@[simp] theorem Slp.goInactive_scState (t : Slp) : t.goInactive.scState = .inactive := by
  rw [Slp.goInactive_eq]
@[simp] theorem Slp.goInactive_portOpen (t : Slp) : t.goInactive.portOpen = false := by
  rw [Slp.goInactive_eq]
@[simp] theorem Slp.goInactive_slTrace (t : Slp) :
    t.goInactive.slTrace = t.slTrace ++ (if t.portOpen then [.closed] else []) := by
  rw [Slp.goInactive_eq]
@[simp] theorem Slp.goInactive_link (t : Slp) : t.goInactive.link = t.link := by
  rw [Slp.goInactive_eq]
@[simp] theorem Slp.goInactive_cmd (t : Slp) : t.goInactive.cmd = t.cmd := by
  rw [Slp.goInactive_eq]
@[simp] theorem Slp.goInactive_latch (t : Slp) : t.goInactive.latch = t.latch := by
  rw [Slp.goInactive_eq]
@[simp] theorem Slp.goInactive_rsp (t : Slp) : t.goInactive.rsp = t.rsp := by
  rw [Slp.goInactive_eq]
@[simp] theorem Slp.goInactive_rst (t : Slp) : t.goInactive.rst = t.rst := by
  rw [Slp.goInactive_eq]

/-! ### Runs -/

@[simp] theorem Run.andThen_done {σ α β : Type} (a : α) (s : σ) (k : α → σ → Run σ β) :
    (Run.done a s).andThen k = k a s := rfl
@[simp] theorem Run.andThen_raised {σ α β : Type} (e : Status) (s : σ) (k : α → σ → Run σ β) :
    (Run.raised e s : Run σ α).andThen k = .raised e s := rfl
@[simp] theorem raise_eq {σ α : Type} (e : Status) (s : σ) : (raise e s : Run σ α) = .raised e s := rfl
@[simp] theorem raiseInactive_eq {α : Type} (e : Status) (t : Slp) :
    (raiseInactive e t : Run Slp α) = .raised e t.goInactive := rfl

/-! ### The machine -/

@[simp] theorem State.onRtx_cfg (f : Rtx → Run Rtx Result) (s : State) : (s.onRtx f).cfg = s.cfg := rfl
@[simp] theorem State.onRtx_rtx (f : Rtx → Run Rtx Result) (s : State) : (s.onRtx f).rtx = Rtx.finish (f s.rtx) := rfl
@[simp] theorem State.onRtx_slp (f : Rtx → Run Rtx Result) (s : State) : (s.onRtx f).slp = s.slp := rfl
@[simp] theorem State.onRtx_image (f : Rtx → Run Rtx Result) (s : State) : (s.onRtx f).image = s.image := rfl
@[simp] theorem State.onRtx_turn (f : Rtx → Run Rtx Result) (s : State) : (s.onRtx f).turn = s.turn := rfl
@[simp] theorem State.onSlp_cfg (f : Slp → Run Slp Result) (s : State) : (s.onSlp f).cfg = s.cfg := rfl
@[simp] theorem State.onSlp_rtx (f : Slp → Run Slp Result) (s : State) : (s.onSlp f).rtx = s.rtx := rfl
@[simp] theorem State.onSlp_slp (f : Slp → Run Slp Result) (s : State) : (s.onSlp f).slp = Slp.finish (f s.slp) := rfl
@[simp] theorem State.onSlp_image (f : Slp → Run Slp Result) (s : State) : (s.onSlp f).image = s.image := rfl
@[simp] theorem State.onSlp_turn (f : Slp → Run Slp Result) (s : State) : (s.onSlp f).turn = s.turn := rfl

@[simp] theorem State.acceptRtx_cfg (w : PortWord) (s : State) : (s.acceptRtx w).cfg = s.cfg := rfl
@[simp] theorem State.acceptRtx_rtx (w : PortWord) (s : State) :
    (s.acceptRtx w).rtx = { s.rtx with cmd := none, latch := some w } := rfl
@[simp] theorem State.acceptRtx_slp (w : PortWord) (s : State) : (s.acceptRtx w).slp = s.slp := rfl
@[simp] theorem State.acceptSlp_cfg (w : PortWord) (s : State) : (s.acceptSlp w).cfg = s.cfg := rfl
@[simp] theorem State.acceptSlp_rtx (w : PortWord) (s : State) : (s.acceptSlp w).rtx = s.rtx := rfl
@[simp] theorem State.acceptSlp_slp (w : PortWord) (s : State) :
    (s.acceptSlp w).slp = { s.slp with cmd := none, latch := some w } := rfl

end Sys2Proof.Machine
end

