-- ==== Sys2Proof/Laws/Radio.lean ====
section
/-! SUPPORT. Laws.Radio: what each operation of RTX does, said once. -/

namespace Sys2Proof.Machine

/-- SYM appends its four events and leaves the line LOW (40 R131). -/
theorem Rtx.sym_eq (cfg : Config) (b : Bit) (r : Rtx) :
    r.sym cfg b = { r with txTrace := r.txTrace ++ symEvents cfg b, txState := r.txState.setLine .low } := by
  simp [Rtx.sym, Rtx.wait, Rtx.emit, Rtx.pinDrive, symEvents]

@[simp] theorem bitEvents_nil (cfg : Config) : bitEvents cfg [] = [] := rfl

@[simp] theorem bitEvents_cons (cfg : Config) (b : Bit) (seq : BitSequence) :
    bitEvents cfg (b :: seq) = symEvents cfg b ++ bitEvents cfg seq := rfl

theorem bitEvents_append (cfg : Config) (xs ys : BitSequence) :
    bitEvents cfg (xs ++ ys) = bitEvents cfg xs ++ bitEvents cfg ys := by simp [bitEvents]

/-- The lifecycle state after a bit sequence: the line is LOW, or as it was where there is no bit (40 R133). -/
def TxState.afterBits (seq : BitSequence) (x : TxState) : TxState := if seq = [] then x else x.setLine .low

@[simp] theorem TxState.afterBits_nil (x : TxState) : x.afterBits [] = x := rfl

theorem TxState.afterBits_of_ne_nil {seq : BitSequence} (h : seq ≠ []) (x : TxState) :
    x.afterBits seq = x.setLine .low := if_neg h

theorem TxState.afterBits_append (xs ys : BitSequence) (x : TxState) :
    x.afterBits (xs ++ ys) = (x.afterBits xs).afterBits ys := by
  by_cases hx : xs = [] <;> by_cases hy : ys = [] <;> simp [afterBits, hx, hy]

/-- While Open a bit sequence writes `line` only. -/
theorem TxState.afterBits_opened (seq : BitSequence) (b : Binding) :
    TxState.afterBits seq (.opened b) = .opened { b with line := if seq = [] then b.line else .low } := by
  by_cases h : seq = [] <;> simp [afterBits, h]

/-- Everything a bit sequence can do to the lifecycle state. -/
theorem TxState.afterBits_cases (seq : BitSequence) (x : TxState) :
    x.afterBits seq = x ∨ x.afterBits seq = x.setLine .low := by
  by_cases h : seq = [] <;> simp [afterBits, h]

/-- TRANSMIT_BITS appends the events of its bits; the line ends LOW unless there is no bit (40 R133). -/
theorem Rtx.transmitBits_eq (cfg : Config) (seq : BitSequence) (r : Rtx) :
    r.transmitBits cfg seq =
      { r with txTrace := r.txTrace ++ bitEvents cfg seq, txState := r.txState.afterBits seq } := by
  induction seq generalizing r with
  | nil => simp [Rtx.transmitBits]
  | cons b seq ih =>
    have h : r.transmitBits cfg (b :: seq) = (r.sym cfg b).transmitBits cfg seq := rfl
    rw [h, ih, Rtx.sym_eq]
    by_cases hs : seq = [] <;> simp [TxState.afterBits, hs]

@[simp] theorem bitsMsb_length (n v : Nat) : (bitsMsb n v).length = n := by simp [bitsMsb]

theorem actionField_length {cfg : Config} (h : cfg.FrameOk) (a : Action) :
    (actionField cfg a).length = cfg.actionBits := by
  obtain ⟨-, hon, hoff, -⟩ := h
  cases a
  · exact hon
  · exact hoff

theorem actionField_ne_nil {cfg : Config} (h : cfg.FrameOk) (a : Action) : actionField cfg a ≠ [] := by
  intro h0
  have hl : cfg.actionBits = 0 := by rw [← actionField_length h a, h0]; rfl
  obtain ⟨-, hon, hoff, hne, -⟩ := h
  exact hne ((List.eq_nil_of_length_eq_zero (hon.trans hl)).trans
    (List.eq_nil_of_length_eq_zero (hoff.trans hl)).symm)

/-- A frame of fields of their lengths is exactly FRAME_BITS long (20_memory R70). -/
theorem frameOf_length {cfg : Config} (h : cfg.FrameOk) {a c : BitSequence} (ha : a.length = cfg.addrBits)
    (hc : c.length = cfg.unitBits) (act : Action) : (frameOf cfg a c act).length = cfg.frameBits := by
  have hx := actionField_length h act
  obtain ⟨hf, -, -, -, he, -⟩ := h
  simp [frameOf, ha, hc, hx, he, hf, Nat.add_assoc]

theorem frameOf_ne_nil {cfg : Config} (h : cfg.FrameOk) (a c : BitSequence) (act : Action) :
    frameOf cfg a c act ≠ [] := by simp [frameOf, actionField_ne_nil h act]

/-- A frame BUILD returns (41 R155). -/
theorem buildFrame_eq_ok {cfg : Config} {address unit : Int} {action : Action} {f : BitSequence}
    (h : buildFrame cfg address unit action = .ok f) :
    ∃ code, unitField cfg unit = some code ∧ f = frameOf cfg (addrField cfg address) code action := by
  unfold buildFrame at h
  split at h
  · split at h
    · cases h
    · rename_i code hc
      cases h
      exact ⟨code, hc, rfl⟩
  · cases h

/-- A code of the table has UNIT_BITS bits (41 R150). -/
theorem unitField_length {cfg : Config} (h : cfg.FrameOk) {unit : Int} {code : BitSequence}
    (hc : unitField cfg unit = some code) : code.length = cfg.unitBits := by
  obtain ⟨-, -, -, -, -, hu⟩ := h
  unfold unitField at hc
  split at hc
  · exact hu code (Vector.mem_toList_iff.2 (Vector.mem_of_getElem? hc))
  · cases hc

/-- A frame BUILD returns has FRAME_BITS bits (41 R156 d). -/
theorem buildFrame_ok_length {cfg : Config} (ho : cfg.FrameOk) {address unit : Int} {action : Action}
    {f : BitSequence} (h : buildFrame cfg address unit action = .ok f) : f.length = cfg.frameBits := by
  obtain ⟨code, hc, rfl⟩ := buildFrame_eq_ok h
  exact frameOf_length ho (by simp [addrField]) (unitField_length ho hc) action

/-- Sending a frame and its idle (42 R176). -/
theorem Rtx.sendFrame_eq (cfg : Config) (f : BitSequence) (r : Rtx) :
    r.sendFrame cfg f =
      { r with txTrace := r.txTrace ++ repetitionEvents cfg f, txState := r.txState.afterBits f } := by
  simp [Rtx.sendFrame, Rtx.transmitBits_eq, Rtx.wait, Rtx.emit, repetitionEvents]

/-- A repetition whose BUILD fails ends there, before any event (42 R176). -/
theorem Rtx.repetition_error {cfg : Config} {address unit : Int} {action : Action} {e : Status}
    (h : buildFrame cfg address unit action = .error e) (r : Rtx) :
    r.repetition cfg address unit action = .raised e r := by
  simp [Rtx.repetition, Rtx.build, h]

/-- A repetition whose BUILD succeeds sends the frame (42 R176). -/
theorem Rtx.repetition_ok {cfg : Config} {address unit : Int} {action : Action} {f : BitSequence}
    (h : buildFrame cfg address unit action = .ok f) (r : Rtx) :
    r.repetition cfg address unit action = .done () (r.sendFrame cfg f) := by
  simp [Rtx.repetition, Rtx.build, h]

theorem repetitions_succ (cfg : Config) (n : Nat) (f : BitSequence) :
    repetitions cfg (n + 1) f = repetitionEvents cfg f ++ repetitions cfg n f := by
  simp [repetitions, List.replicate_succ]

theorem repetitions_add (cfg : Config) (m n : Nat) (f : BitSequence) :
    repetitions cfg (m + n) f = repetitions cfg m f ++ repetitions cfg n f := by
  simp [repetitions, ← List.replicate_append_replicate]

/-- A loop whose body fails at once, run at least once, fails at once. -/
theorem repeatRun_error {σ : Type} {n : Nat} (hn : 1 ≤ n) {f : σ → Run σ Unit} {s : σ} {e : Status}
    (h : f s = .raised e s) : repeatRun n f s = .raised e s := by
  obtain ⟨m, rfl⟩ : ∃ m, n = m + 1 := ⟨n - 1, by omega⟩
  simp [repeatRun, h]

/-- The loop of TRANSMIT with a valid frame (42 R176). -/
theorem repeatRun_repetition {cfg : Config} {address unit : Int} {action : Action} {f : BitSequence}
    (h : buildFrame cfg address unit action = .ok f) (n : Nat) (r : Rtx) :
    repeatRun n (Rtx.repetition cfg address unit action) r =
      .done ()
        { r with
          txTrace := r.txTrace ++ repetitions cfg n f
          txState := r.txState.afterBits (List.replicate n f).flatten } := by
  induction n generalizing r with
  | zero => simp [repeatRun, repetitions]
  | succ n ih =>
    rw [repeatRun, Rtx.repetition_ok h, Run.andThen_done, ih, Rtx.sendFrame_eq, repetitions_succ,
      List.replicate_succ, List.flatten_cons, TxState.afterBits_append]
    simp

/-- A valid TRANSMIT on an open block (42 R176). -/
theorem Rtx.transmit_ok {cfg : Config} {address unit : Int} {action : Action} {f : BitSequence}
    (h : buildFrame cfg address unit action = .ok f) {r : Rtx} {b : Binding} (hb : r.txState = .opened b) :
    r.transmit cfg address unit action =
      .done ()
        { r with
          txTrace := r.txTrace ++ repetitions cfg b.retries f
          txState := r.txState.afterBits (List.replicate b.retries f).flatten } := by
  simp [Rtx.transmit, hb, repeatRun_repetition h]

/-- An invalid TRANSMIT on an open block (42 R176). -/
theorem Rtx.transmit_error {cfg : Config} {address unit : Int} {action : Action} {e : Status}
    (h : buildFrame cfg address unit action = .error e) {r : Rtx} {b : Binding} (hb : r.txState = .opened b)
    (hr : 1 ≤ b.retries) : r.transmit cfg address unit action = .raised e r := by
  simp [Rtx.transmit, hb, repeatRun_error hr (Rtx.repetition_error h r)]

/-- TRANSMIT and TRANSMIT_ALL on a block that is not Open (42 R170). -/
theorem Rtx.transmit_closed {cfg : Config} {address unit : Int} {action : Action} {r : Rtx}
    (h : ∀ b, r.txState ≠ .opened b) : r.transmit cfg address unit action = .raised .closed r := by
  unfold Rtx.transmit
  split
  · rfl
  · rename_i b hb
    exact absurd hb (h b)
  · rfl

theorem Rtx.transmitAll_closed {cfg : Config} {action : Action} {r : Rtx}
    (h : ∀ b, r.txState ≠ .opened b) : r.transmitAll cfg action = .raised .closed r := by
  unfold Rtx.transmitAll
  split
  · rfl
  · rename_i b hb
    exact absurd hb (h b)
  · rfl

/-- The loop of TRANSMIT_ALL with a valid ALL pair (42 R180). -/
theorem repeatRun_transmit {cfg : Config} {address unit : Int} {action : Action} {f : BitSequence}
    (h : buildFrame cfg address unit action = .ok f) (n : Nat) {r : Rtx} {b : Binding}
    (hb : r.txState = .opened b) :
    repeatRun n (Rtx.transmit cfg address unit action) r =
      .done ()
        { r with
          txTrace := r.txTrace ++ repetitions cfg (n * b.retries) f
          txState := r.txState.afterBits (List.replicate (n * b.retries) f).flatten } := by
  induction n generalizing r b with
  | zero => simp [repeatRun, repetitions]
  | succ n ih =>
    rw [repeatRun, Rtx.transmit_ok h hb, Run.andThen_done]
    have hadd : (n + 1) * b.retries = b.retries + n * b.retries := by ring
    rw [ih (by rw [hb, TxState.afterBits_opened]), hadd, repetitions_add, ← List.replicate_append_replicate,
      List.flatten_append, TxState.afterBits_append]
    simp

/-- A TRANSMIT_ALL whose ALL pair passes BUILD's checks (42 R180). -/
theorem Rtx.transmitAll_ok {cfg : Config} {action : Action} {f : BitSequence}
    (h : buildFrame cfg cfg.allAddress cfg.allUnit action = .ok f) {r : Rtx} {b : Binding}
    (hb : r.txState = .opened b) :
    r.transmitAll cfg action =
      .done ()
        { r with
          txTrace := r.txTrace ++ repetitions cfg (b.retries * b.retries) f
          txState := r.txState.afterBits (List.replicate (b.retries * b.retries) f).flatten } := by
  simp [Rtx.transmitAll, hb, repeatRun_transmit h b.retries hb]

/-- At least one frame leaves the line LOW (42 R176). -/
theorem TxState.afterBits_frames {f : BitSequence} (hf : f ≠ []) {n : Nat} (hn : 1 ≤ n) (x : TxState) :
    x.afterBits (List.replicate n f).flatten = x.setLine .low := by
  obtain ⟨m, rfl⟩ : ∃ m, n = m + 1 := ⟨n - 1, by omega⟩
  exact TxState.afterBits_of_ne_nil (by simp [List.replicate_succ, hf]) x

/-- The address check (20_memory R60). -/
theorem addressValid_iff (cfg : Config) (address : Int) :
    addressValid cfg address = true ↔ 0 ≤ address ∧ address < 2 ^ cfg.addrBits := by simp [addressValid]

/-- BUILD with valid operands (41 R155). -/
theorem buildFrame_ok {cfg : Config} {address unit : Int} {action : Action}
    (ha : 0 ≤ address ∧ address < 2 ^ cfg.addrBits) (hu : 1 ≤ unit ∧ unit ≤ 5) :
    ∃ code, unitField cfg unit = some code ∧ cfg.unitCode[(unit - 1).toNat]? = some code ∧
      buildFrame cfg address unit action = .ok (frameOf cfg (addrField cfg address) code action) := by
  have hlt : (unit - 1).toNat < 5 := by omega
  have hc : cfg.unitCode[(unit - 1).toNat]? = some cfg.unitCode[(unit - 1).toNat] := by
    rw [Vector.getElem?_eq_getElem hlt]
  have hf : unitField cfg unit = some cfg.unitCode[(unit - 1).toNat] := by rw [unitField, if_pos hu, hc]
  exact ⟨_, hf, hc, by rw [buildFrame, if_pos ((addressValid_iff cfg address).2 ha), hf]⟩

/-- BUILD with a bad address (41 R155). -/
theorem buildFrame_badAddress {cfg : Config} {address unit : Int} {action : Action}
    (ha : address < 0 ∨ 2 ^ cfg.addrBits ≤ address) :
    buildFrame cfg address unit action = .error .invalidAddress := by
  rw [buildFrame, if_neg]
  rw [addressValid_iff]
  omega

/-- BUILD with a good address and a bad unit (41 R155). -/
theorem buildFrame_badUnit {cfg : Config} {address unit : Int} {action : Action}
    (ha : 0 ≤ address ∧ address < 2 ^ cfg.addrBits) (hu : unit < 1 ∨ 5 < unit) :
    buildFrame cfg address unit action = .error .invalidUnit := by
  have h : unitField cfg unit = none := by
    unfold unitField
    rw [if_neg (by omega)]
  rw [buildFrame, if_pos ((addressValid_iff cfg address).2 ha), h]

end Sys2Proof.Machine
end

