-- ==== Sys2Proof/Laws/Decode.lean ====
section
/-! SUPPORT. Laws.Decode: the bit and byte fields of the encodings. -/

namespace Sys2Proof

theorem numberOfBits_snoc (f : BitSequence) (b : Bit) : numberOfBits (f ++ [b]) = 2 * numberOfBits f + b.toNat := by
  simp [numberOfBits]

/-- The bits of the number a bit sequence is read as (00_scope R7). -/
theorem testBit_numberOfBits (f : BitSequence) :
    ∀ i, i < f.length → (numberOfBits f).testBit (f.length - 1 - i) = f.getD i false := by
  induction f using List.reverseRecOn with
  | nil => simp
  | append_singleton f b ih =>
    intro i hi
    rw [numberOfBits_snoc]
    simp only [List.length_append, List.length_singleton] at *
    by_cases h : i = f.length
    · subst h
      cases b <;> simp [Nat.testBit_zero]
    · have hk : f.length + 1 - 1 - i = (f.length - 1 - i) + 1 := by omega
      have hh : (2 * numberOfBits f + b.toNat) / 2 = numberOfBits f := by
        cases b
        · simp
        · simp
          omega
      rw [hk, Nat.testBit_succ, hh, ih i (by omega)]
      simp [List.getElem?_append_left (show i < f.length by omega)]

theorem numberOfBits_lt (f : BitSequence) : numberOfBits f < 2 ^ f.length := by
  induction f using List.reverseRecOn with
  | nil => simp [numberOfBits]
  | append_singleton f b ih =>
    rw [numberOfBits_snoc, List.length_append, List.length_singleton, pow_succ]
    cases b
    · simp
      omega
    · simp
      omega

/-- Reading a bit sequence as a number and writing its bits out again gives it back. -/
theorem bitsMsb_numberOfBits (f : BitSequence) : bitsMsb f.length (numberOfBits f) = f := by
  apply List.ext_getElem
  · simp [bitsMsb]
  · intro i h1 h2
    simp only [bitsMsb, List.getElem_map, List.getElem_range]
    rw [testBit_numberOfBits f i h2]
    simp [h2]

/-- Writing a number's bits out and reading them again gives it back (41 R151). -/
theorem numberOfBits_bitsMsb {n v : Nat} (h : v < 2 ^ n) : numberOfBits (bitsMsb n v) = v := by
  have hl : (bitsMsb n v).length = n := by simp [bitsMsb]
  have hb : bitsMsb n (numberOfBits (bitsMsb n v)) = bitsMsb n v := by
    simpa [hl] using bitsMsb_numberOfBits (bitsMsb n v)
  have hlt := numberOfBits_lt (bitsMsb n v)
  rw [hl] at hlt
  apply Nat.eq_of_testBit_eq
  intro i
  by_cases hi : i < n
  · have hg : (bitsMsb n (numberOfBits (bitsMsb n v)))[n - 1 - i]? = (bitsMsb n v)[n - 1 - i]? := by rw [hb]
    have h1 : n - 1 - (n - 1 - i) = i := by omega
    simpa [bitsMsb, show n - 1 - i < n by omega, h1] using hg
  · rw [Nat.testBit_lt_two_pow (lt_of_lt_of_le hlt (Nat.pow_le_pow_right (by omega) (by omega))),
      Nat.testBit_lt_two_pow (lt_of_lt_of_le h (Nat.pow_le_pow_right (by omega) (by omega)))]

/-- The four fields of a frame stand where format F-FRAME puts them (30_encoding R92). -/
theorem frameOf_fields {cfg : Config} {a c : BitSequence} (ha : a.length = cfg.addrBits)
    (hc : c.length = cfg.unitBits) {action : Action} (hx : (actionField cfg action).length = cfg.actionBits) :
    (frameOf cfg a c action).take cfg.addrBits = a ∧
      ((frameOf cfg a c action).drop cfg.addrBits).take cfg.unitBits = c ∧
      ((frameOf cfg a c action).drop (cfg.addrBits + cfg.unitBits)).take cfg.actionBits = actionField cfg action ∧
      (frameOf cfg a c action).drop (cfg.addrBits + cfg.unitBits + cfg.actionBits) = cfg.endMark := by
  unfold frameOf
  refine ⟨?_, ?_, ?_, ?_⟩
  · rw [List.append_assoc, List.append_assoc, List.take_left' ha]
  · rw [List.append_assoc, List.append_assoc, List.drop_left' ha, List.take_left' hc]
  · rw [List.append_assoc, List.drop_left' (by simp [ha, hc]), List.take_left' hx]
  · rw [List.drop_left' (by simp [ha, hc, hx, Nat.add_assoc])]

/-- The payload of a name store is taken off the stream whole (30_encoding R93). -/
theorem takeName_append (name : NameBytes) (rest : List Byte) :
    takeName name.length (name ++ rest) = some (name, rest) := by simp [takeName]

end Sys2Proof
end

