-- ==== Sys2Proof/Laws/Operands.lean ====
section
/-! SUPPORT. Laws.Operands: what each operand check and each command byte says, once. -/

namespace Sys2Proof.Machine

/-- SET_DIGITAL's pins (44 R231). -/
theorem digitalPinValid_iff (cfg : Config) (pin : Int) :
    digitalPinValid cfg pin = true ↔ cfg.dpinMin ≤ pin ∧ pin ≤ cfg.dpinMax := by simp [digitalPinValid]

theorem digitalPinValid_false {cfg : Config} {pin : Int} (h : pin < cfg.dpinMin ∨ cfg.dpinMax < pin) :
    digitalPinValid cfg pin = false := by
  rw [Bool.eq_false_iff, ne_eq, digitalPinValid_iff]
  omega

/-- READ_ANALOG's pins (44 R236). -/
theorem analogPinValid_iff (cfg : Config) (pin : Int) :
    analogPinValid cfg pin = true ↔ cfg.apinMin ≤ pin ∧ pin ≤ cfg.apinMax := by simp [analogPinValid]

theorem analogPinValid_false {cfg : Config} {pin : Int} (h : pin < cfg.apinMin ∨ cfg.apinMax < pin) :
    analogPinValid cfg pin = false := by
  rw [Bool.eq_false_iff, ne_eq, analogPinValid_iff]
  omega

/-- The bytes of the pins, as numbers, where the pin ranges keep them apart (30_encoding R102). -/
theorem setHighByte_toNat {pin : Nat} (h : pin ≤ 30) : (setHighByte pin).toNat = 0x41 + pin := by
  simp [setHighByte]
  omega

theorem setLowByte_toNat {pin : Nat} (h : pin ≤ 30) : (setLowByte pin).toNat = 0x61 + pin := by
  simp [setLowByte]
  omega

/-- A byte is the byte of its number. -/
theorem byte_eq_ofNat {b : Byte} {n : Nat} (h : b.toNat = n) : b = BitVec.ofNat 8 n := by
  subst h
  simp

/-- SET_DIGITAL's byte, read as a number (30_encoding R102). -/
theorem setDigitalByte_eq {pin : Int} {value : Bit} {b : Byte} (h0 : 0 ≤ pin)
    (h : (b.toNat : Int) = (if value then 0x41 else 0x61) + pin) : setDigitalByte pin value = b := by
  cases value
  · rw [byte_eq_ofNat (n := 0x61 + pin.toNat) (b := b) (by simp at h; omega)]
    rfl
  · rw [byte_eq_ofNat (n := 0x41 + pin.toNat) (b := b) (by simp at h; omega)]
    rfl

/-- READ_ANALOG's byte, read as a number (30_encoding R103). -/
theorem readAnalogByte_eq {pin : Int} {b : Byte} (h0 : 0 ≤ pin) (h : (b.toNat : Int) = 0x30 + pin) :
    readAnalogByte pin.toNat = b := by
  rw [byte_eq_ofNat (n := 0x30 + pin.toNat) (b := b) (by omega)]
  rfl

/-! ### PinState: a mapping (44 R234) -/

@[simp] theorem PinState.get_empty (pin : Nat) : PinState.empty.get pin = none := rfl

theorem lookup_cons_if (k q : Nat) (w : Bit) (cells : List (Nat × Bit)) :
    ((k, w) :: cells).lookup q = if k = q then some w else cells.lookup q := by
  rw [List.lookup_cons]
  by_cases h : k = q
  · subst h
    simp
  · rw [if_neg h, beq_false_of_ne (Ne.symm h)]

theorem lookup_putCell (p q : Nat) (v : Bit) (cells : List (Nat × Bit)) :
    (putCell p v cells).lookup q = if p = q then some v else cells.lookup q := by
  induction cells with
  | nil => rw [putCell, lookup_cons_if]
  | cons c cells ih =>
    obtain ⟨k, w⟩ := c
    unfold putCell
    split
    · rw [lookup_cons_if]
    · split
      · rename_i hk
        subst hk
        rw [lookup_cons_if, lookup_cons_if]
        split <;> rfl
      · rename_i hk
        rw [lookup_cons_if, lookup_cons_if, ih]
        by_cases hq : k = q
        · rw [if_pos hq, if_neg (by omega), if_pos hq]
        · rw [if_neg hq, if_neg hq]

/-- Reading after assigning: the pin's new value, every other pin as before. -/
theorem PinState.get_put (m : PinState) (p q : Nat) (v : Bit) :
    (m.put p v).get q = if p = q then some v else m.get q := lookup_putCell p q v m.cells

theorem putCell_pairwise {p : Nat} {v : Bit} {cells : List (Nat × Bit)} (h : cells.Pairwise (·.1 < ·.1)) :
    (putCell p v cells).Pairwise (·.1 < ·.1) ∧ ∀ k, k < p → (∀ c ∈ cells, k < c.1) → ∀ c ∈ putCell p v cells, k < c.1 := by
  induction cells with
  | nil => simp [putCell]
  | cons c cells ih =>
    obtain ⟨q, w⟩ := c
    rw [List.pairwise_cons] at h
    obtain ⟨ih1, ih2⟩ := ih h.2
    unfold putCell
    split
    · rename_i hq
      refine ⟨List.pairwise_cons.2 ⟨?_, List.pairwise_cons.2 h⟩, ?_⟩
      · intro c hc
        rcases List.mem_cons.1 hc with rfl | hc
        · exact hq
        · exact lt_trans hq (h.1 c hc)
      · intro k hk hall c hc
        rcases List.mem_cons.1 hc with rfl | hc
        · exact hk
        · exact hall c hc
    · split
      · rename_i hq
        subst hq
        refine ⟨List.pairwise_cons.2 h, ?_⟩
        intro k hk hall c hc
        rcases List.mem_cons.1 hc with rfl | hc
        · exact hk
        · exact hall c (List.mem_cons_of_mem _ hc)
      · rename_i hlt hne
        refine ⟨List.pairwise_cons.2 ⟨ih2 q (by omega) h.1, ih1⟩, ?_⟩
        intro k hk hall c hc
        rcases List.mem_cons.1 hc with rfl | hc
        · exact hall _ List.mem_cons_self
        · exact ih2 k hk (fun c hc => hall c (List.mem_cons_of_mem _ hc)) c hc

/-- Assigning keeps the canonical form. -/
theorem PinState.put_wf {m : PinState} (h : m.wf) (p : Nat) (v : Bit) : (m.put p v).wf := (putCell_pairwise h).1

/-- What the decoder of a pin-state line answers is canonical. -/
theorem decodePinState_wf (cfg : Config) (bs : List Byte) : (decodePinState cfg bs).wf := by
  unfold decodePinState
  suffices ∀ m : PinState, m.wf → (bs.foldl (PinState.letter cfg) m).wf from this _ List.Pairwise.nil
  induction bs with
  | nil => exact fun m hm => hm
  | cons b bs ih =>
    intro m hm
    apply ih
    unfold PinState.letter
    dsimp only
    split
    · exact PinState.put_wf hm _ _
    · split
      · exact PinState.put_wf hm _ _
      · exact hm

end Sys2Proof.Machine
end

