-- ==== Sys2Proof/Laws/Serial.lean ====
section
/-! SUPPORT. Laws.Serial: what each operation of SLP does, said once. -/

namespace Sys2Proof.Machine

/-- SLP after events, its answers moved on, its lifecycle state as it was. -/
def Slp.after (es : List SlpEvent) (l : Link) (t : Slp) : Slp := { t with slTrace := t.slTrace ++ es, link := l }

@[simp] theorem Slp.after_scState (es : List SlpEvent) (l : Link) (t : Slp) : (t.after es l).scState = t.scState := rfl
@[simp] theorem Slp.after_portOpen (es : List SlpEvent) (l : Link) (t : Slp) :
    (t.after es l).portOpen = t.portOpen := rfl
@[simp] theorem Slp.after_slTrace (es : List SlpEvent) (l : Link) (t : Slp) :
    (t.after es l).slTrace = t.slTrace ++ es := rfl
@[simp] theorem Slp.after_link (es : List SlpEvent) (l : Link) (t : Slp) : (t.after es l).link = l := rfl
@[simp] theorem Slp.after_cmd (es : List SlpEvent) (l : Link) (t : Slp) : (t.after es l).cmd = t.cmd := rfl
@[simp] theorem Slp.after_latch (es : List SlpEvent) (l : Link) (t : Slp) : (t.after es l).latch = t.latch := rfl
@[simp] theorem Slp.after_rsp (es : List SlpEvent) (l : Link) (t : Slp) : (t.after es l).rsp = t.rsp := rfl
@[simp] theorem Slp.after_rst (es : List SlpEvent) (l : Link) (t : Slp) : (t.after es l).rst = t.rst := rfl
@[simp] theorem Slp.after_after (es es' : List SlpEvent) (l l' : Link) (t : Slp) :
    (t.after es l).after es' l' = t.after (es ++ es') l' := by simp [Slp.after]
@[simp] theorem Slp.after_nil (t : Slp) : t.after [] t.link = t := by simp [Slp.after]

/-! ### The transport primitives -/

theorem Slp.access_ok {es : List SlpEvent} {t : Slp} {l : Link} (h : t.link.nextIo = (.ok, l)) :
    t.access es = (.ok, t.after es l) := by simp [Slp.access, h, Slp.after, Slp.emit]

theorem Slp.access_fail {es : List SlpEvent} {t : Slp} {l : Link} (h : t.link.nextIo = (.fail, l)) :
    t.access es = (.fail, t.after [] l) := by simp [Slp.access, h, Slp.after]

/-- Everything an access can do (60_exceptions R303). -/
theorem Slp.access_cases (es : List SlpEvent) (t : Slp) :
    (∃ l, t.link.nextIo = (.ok, l) ∧ t.access es = (.ok, t.after es l)) ∨
      (∃ l, t.link.nextIo = (.fail, l) ∧ t.access es = (.fail, t.after [] l)) := by
  rcases h : t.link.nextIo with ⟨a, l⟩
  cases a
  · exact .inl ⟨l, rfl, Slp.access_ok h⟩
  · exact .inr ⟨l, rfl, Slp.access_fail h⟩

theorem Slp.serReadLine_eq {t : Slp} {a : ReadAnswer} {l : Link} (h : t.link.nextRead = (a, l)) :
    t.serReadLine = (readResult a, t.after [.rx (readResult a)] l) := by
  simp [Slp.serReadLine, h, Slp.after, Slp.emit]

/-! ### The wire helpers (43 R210) -/

theorem Slp.sendCmd_ok {bs : List Byte} {t : Slp} {l1 l2 : Link} (h1 : t.link.nextIo = (.ok, l1))
    (h2 : l1.nextIo = (.ok, l2)) : t.sendCmd bs = .done () (t.after (bs.map .tx ++ [.flush]) l2) := by
  have hf : (t.after (bs.map .tx) l1).serFlush = _ := Slp.access_ok (es := [.flush]) h2
  simp [Slp.sendCmd, Slp.serWrite, Slp.access_ok h1, hf]

theorem Slp.sendCmd_writeFail {bs : List Byte} {t : Slp} {l1 : Link} (h1 : t.link.nextIo = (.fail, l1)) :
    t.sendCmd bs = .raised .ioFailure (t.after [] l1).goInactive := by
  simp [Slp.sendCmd, Slp.serWrite, Slp.access_fail h1]

theorem Slp.sendCmd_flushFail {bs : List Byte} {t : Slp} {l1 l2 : Link} (h1 : t.link.nextIo = (.ok, l1))
    (h2 : l1.nextIo = (.fail, l2)) :
    t.sendCmd bs = .raised .ioFailure (t.after (bs.map .tx) l2).goInactive := by
  have hf : (t.after (bs.map .tx) l1).serFlush = _ := Slp.access_fail (es := [.flush]) h2
  simp [Slp.sendCmd, Slp.serWrite, Slp.access_ok h1, hf]

/-- Everything SendCmd can do (43 R210). -/
theorem Slp.sendCmd_cases (bs : List Byte) (t : Slp) :
    (∃ l1 l2, t.link.nextIo = (.ok, l1) ∧ l1.nextIo = (.ok, l2) ∧
        t.sendCmd bs = .done () (t.after (bs.map .tx ++ [.flush]) l2)) ∨
      (∃ es l, .closed ∉ es ∧ t.sendCmd bs = .raised .ioFailure (t.after es l).goInactive) := by
  rcases h1 : t.link.nextIo with ⟨_ | _, l1⟩
  · rcases h2 : l1.nextIo with ⟨_ | _, l2⟩
    · exact .inl ⟨l1, l2, rfl, h2, Slp.sendCmd_ok h1 h2⟩
    · exact .inr ⟨bs.map .tx, l2, by simp, Slp.sendCmd_flushFail h1 h2⟩
  · exact .inr ⟨[], l1, by simp, Slp.sendCmd_writeFail h1⟩

theorem Slp.recvLine_line {t : Slp} {raw : List Byte} {l : Link} (h : t.link.nextRead = (.line raw, l)) :
    t.recvLine = .done (lineContent raw) (t.after [.rx (.line (lineContent raw))] l) := by
  simp [Slp.recvLine, Slp.serReadLine_eq h, readResult]

theorem Slp.recvLine_timeout {t : Slp} {l : Link} (h : t.link.nextRead = (.timeout, l)) :
    t.recvLine = .raised .ioTimeout (t.after [.rx .timeout] l).goInactive := by
  simp [Slp.recvLine, Slp.serReadLine_eq h, readResult]

theorem Slp.recvLine_fail {t : Slp} {l : Link} (h : t.link.nextRead = (.fail, l)) :
    t.recvLine = .raised .ioFailure (t.after [.rx .fail] l).goInactive := by
  simp [Slp.recvLine, Slp.serReadLine_eq h, readResult]

/-- Everything RecvLine can do (43 R210). -/
theorem Slp.recvLine_cases (t : Slp) :
    (∃ raw l, t.link.nextRead = (.line raw, l) ∧
        t.recvLine = .done (lineContent raw) (t.after [.rx (.line (lineContent raw))] l)) ∨
      (∃ e es l, (e = .ioTimeout ∨ e = .ioFailure) ∧ .closed ∉ es ∧
        t.recvLine = .raised e (t.after es l).goInactive) := by
  rcases h : t.link.nextRead with ⟨raw | _ | _, l⟩
  · exact .inl ⟨raw, l, rfl, Slp.recvLine_line h⟩
  · exact .inr ⟨_, _, l, .inl rfl, by simp, Slp.recvLine_timeout h⟩
  · exact .inr ⟨_, _, l, .inr rfl, by simp, Slp.recvLine_fail h⟩

theorem Slp.exchange_ok {b : Byte} {t : Slp} {l1 l2 l3 : Link} {raw : List Byte} (h1 : t.link.nextIo = (.ok, l1))
    (h2 : l1.nextIo = (.ok, l2)) (h3 : l2.nextRead = (.line raw, l3)) :
    t.exchange b = .done (lineContent raw) (t.after [.tx b, .flush, .rx (.line (lineContent raw))] l3) := by
  rw [Slp.exchange, Slp.sendCmd_ok h1 h2, Run.andThen_done, Slp.recvLine_line (by simpa using h3)]
  simp

/-- Everything a byte-and-line exchange can do (43 R210). -/
theorem Slp.exchange_cases (b : Byte) (t : Slp) :
    (∃ raw l, t.exchange b = .done (lineContent raw) (t.after [.tx b, .flush, .rx (.line (lineContent raw))] l)) ∨
      (∃ e es l, (e = .ioTimeout ∨ e = .ioFailure) ∧ .closed ∉ es ∧
        t.exchange b = .raised e (t.after es l).goInactive) := by
  rw [Slp.exchange]
  rcases Slp.sendCmd_cases [b] t with ⟨l1, l2, -, -, h⟩ | ⟨es, l, hes, h⟩
  · rw [h, Run.andThen_done]
    rcases Slp.recvLine_cases (t.after ([b].map .tx ++ [.flush]) l2) with ⟨raw, l3, -, h3⟩ | ⟨e, es, l3, he, hes, h3⟩
    · exact .inl ⟨raw, l3, by rw [h3]; simp⟩
    · exact .inr ⟨e, [b].map .tx ++ [.flush] ++ es, l3, he, by simpa using hes, by rw [h3, Slp.after_after]⟩
  · exact .inr ⟨_, es, l, .inr rfl, hes, by rw [h]; rfl⟩

/-! ### The guards (43 R211) -/

theorem Slp.requireActive_active {t : Slp} {fw : Firmware} (h : t.scState = .active fw) :
    t.requireActive = .done fw t := by simp [Slp.requireActive, h]

theorem Slp.requireActive_other {t : Slp} (h : ∀ fw, t.scState ≠ .active fw) :
    t.requireActive = .raised .inactive t := by
  unfold Slp.requireActive
  split
  · rfl
  · rename_i fw hfw
    exact absurd hfw (h fw)
  · rfl

theorem Slp.requireGate_ok {v : Nat} {t : Slp} {fw : Firmware} (h : t.scState = .active fw) (hv : v ≤ fw.verNum) :
    t.requireGate v = .done () t := by
  simp [Slp.requireGate, Slp.requireActive_active h, Slp.requireVersion, Nat.not_lt.mpr hv]

theorem Slp.requireGate_below {v : Nat} {t : Slp} {fw : Firmware} (h : t.scState = .active fw) (hv : fw.verNum < v) :
    t.requireGate v = .raised .unsupportedVersion t := by
  simp [Slp.requireGate, Slp.requireActive_active h, Slp.requireVersion, hv]

theorem Slp.requireGate_other {v : Nat} {t : Slp} (h : ∀ fw, t.scState ≠ .active fw) :
    t.requireGate v = .raised .inactive t := by
  simp [Slp.requireGate, Slp.requireActive_other h]

/-- Everything the guards can do (43 R211). -/
theorem Slp.requireGate_cases (v : Nat) (t : Slp) :
    (∃ fw, t.scState = .active fw ∧ t.requireGate v = .done () t) ∨
      (∃ fw, t.scState = .active fw ∧ fw.verNum < v ∧ t.requireGate v = .raised .unsupportedVersion t) ∨
      ((∀ fw, t.scState ≠ .active fw) ∧ t.requireGate v = .raised .inactive t) := by
  rcases h : t.scState with _ | fw | _
  · exact .inr (.inr ⟨by simp, Slp.requireGate_other (by simp [h])⟩)
  · by_cases hv : fw.verNum < v
    · exact .inr (.inl ⟨fw, rfl, hv, Slp.requireGate_below h hv⟩)
    · exact .inl ⟨fw, rfl, Slp.requireGate_ok h (by omega)⟩
  · exact .inr (.inr ⟨by simp, Slp.requireGate_other (by simp [h])⟩)

theorem Slp.requireActive_cases (t : Slp) :
    (∃ fw, t.scState = .active fw ∧ t.requireActive = .done fw t) ∨
      ((∀ fw, t.scState ≠ .active fw) ∧ t.requireActive = .raised .inactive t) := by
  rcases h : t.scState with _ | fw | _
  · exact .inr ⟨by simp, Slp.requireActive_other (by simp [h])⟩
  · exact .inl ⟨fw, rfl, Slp.requireActive_active h⟩
  · exact .inr ⟨by simp, Slp.requireActive_other (by simp [h])⟩

end Sys2Proof.Machine
end

