-- ==== Sys2Proof/Laws/Exec.lean ====
section
/-! SUPPORT. Laws.Exec: everything an instruction can do to its block, said once for all instructions. -/

namespace Sys2Proof.Machine

/-! ### RTX -/

/-- The ways an instruction of RTX can end, from `r` (42_radio_transmitter, 60_exceptions R316). -/
inductive Rtx.Ended (cfg : Config) (r : Rtx) : Rtx → Prop where
  /-- nothing but the response; an error shows no result -/
  | answered (st : Status) (res : Result) (h : st ≠ .ok → res = .none) : Rtx.Ended cfg r (r.respond st res)
  /-- OPEN binds the pin -/
  | bound (pin retries : Int) (h : r.txState = .unbound) (hp : pin ∈ cfg.validPins) (hr : 1 ≤ retries) :
    Rtx.Ended cfg r
      (Rtx.respond .ok .none
        { r with
          txState := .opened { pin := pin, retries := retries.toNat, line := .low }
          txTrace := r.txTrace ++ [.bind pin, .drive .low] })
  /-- the events of a bit sequence, with idles: they leave the line LOW, or as it was where there is no bit -/
  | sent (es : List RtxEvent) (seq : BitSequence) :
    Rtx.Ended cfg r
      (Rtx.respond .ok .none { r with txTrace := r.txTrace ++ es, txState := r.txState.afterBits seq })
  /-- CLOSE releases the pin -/
  | released (b : Binding) (h : r.txState = .opened b) :
    Rtx.Ended cfg r (Rtx.respond .ok .none { r with txState := .closed, txTrace := r.txTrace ++ [.release b.pin] })

theorem TxState.setLine_of_not_opened {x : TxState} (l : Level) (h : ∀ b, x ≠ .opened b) : x.setLine l = x := by
  cases x with
  | unbound => rfl
  | opened b => exact absurd rfl (h b)
  | closed => rfl

/-- BUILD either fails or does not. -/
theorem buildFrame_cases (cfg : Config) (address unit : Int) (action : Action) :
    (∃ f, buildFrame cfg address unit action = .ok f) ∨ (∃ e, buildFrame cfg address unit action = .error e) := by
  cases h : buildFrame cfg address unit action with
  | ok f => exact .inl ⟨f, rfl⟩
  | error e => exact .inr ⟨e, rfl⟩

/-- Everything TRANSMIT can do (42 R176). -/
theorem Rtx.transmit_cases (cfg : Config) (address unit : Int) (action : Action) (r : Rtx) :
    (∃ e, r.transmit cfg address unit action = .raised e r) ∨
      (∃ r', r.transmit cfg address unit action = .done () r' ∧ Rtx.Ended cfg r (r'.respond .ok .none)) := by
  by_cases hx : ∃ b, r.txState = .opened b
  · obtain ⟨b, hb⟩ := hx
    by_cases h0 : b.retries = 0
    · exact .inr ⟨r, by simp [Rtx.transmit, hb, h0, repeatRun], .answered _ _ (fun _ => rfl)⟩
    · rcases buildFrame_cases cfg address unit action with ⟨f, hf⟩ | ⟨e, he⟩
      · exact .inr ⟨_, Rtx.transmit_ok hf hb, .sent _ _⟩
      · exact .inl ⟨e, Rtx.transmit_error he hb (by omega)⟩
  · exact .inl ⟨_, Rtx.transmit_closed fun b hb => hx ⟨b, hb⟩⟩

/-- Everything TRANSMIT_ALL can do (42 R180). -/
theorem Rtx.transmitAll_cases (cfg : Config) (action : Action) (r : Rtx) :
    (∃ e, r.transmitAll cfg action = .raised e r) ∨
      (∃ r', r.transmitAll cfg action = .done () r' ∧ Rtx.Ended cfg r (r'.respond .ok .none)) := by
  by_cases hx : ∃ b, r.txState = .opened b
  · obtain ⟨b, hb⟩ := hx
    by_cases h0 : b.retries = 0
    · exact .inr ⟨r, by simp [Rtx.transmitAll, hb, h0, repeatRun], .answered _ _ (fun _ => rfl)⟩
    · rcases buildFrame_cases cfg cfg.allAddress cfg.allUnit action with ⟨f, hf⟩ | ⟨e, he⟩
      · exact .inr ⟨_, Rtx.transmitAll_ok hf hb, .sent _ _⟩
      · refine .inl ⟨e, ?_⟩
        simp [Rtx.transmitAll, hb, repeatRun_error (show 1 ≤ b.retries by omega)
          (Rtx.transmit_error he hb (by omega))]
  · exact .inl ⟨_, Rtx.transmitAll_closed fun b hb => hx ⟨b, hb⟩⟩

/-- A frame image sends one frame, or answers only (log 7). -/
theorem Rtx.sendImage_ended (cfg : Config) (a c : BitSequence) (action : Action) (r : Rtx) :
    Rtx.Ended cfg r (Rtx.finish (r.sendImage cfg a c action)) := by
  rcases hx : r.txState with _ | b | _
  · rw [Rtx.sendImage, hx]
    exact .answered _ _ (fun _ => rfl)
  · rw [Rtx.sendImage, hx]
    dsimp only
    split
    · rw [Rtx.sendFrame_eq]
      exact .sent _ _
    · exact .answered _ _ (fun _ => rfl)
  · rw [Rtx.sendImage, hx]
    exact .answered _ _ (fun _ => rfl)

/-- OPEN in Unbound (42 R171). -/
theorem Rtx.openPin_ended (cfg : Config) (pin retries : Int) {r : Rtx} (h : r.txState = .unbound) :
    Rtx.Ended cfg r (Rtx.finish (Rtx.openPin cfg pin retries r)) := by
  unfold Rtx.openPin
  split
  · exact .answered _ _ (fun _ => rfl)
  · rename_i hp
    split
    · exact .answered _ _ (fun _ => rfl)
    · rename_i hr
      have := Rtx.Ended.bound (cfg := cfg) pin retries h (not_not.mp hp) (by omega)
      simpa [Rtx.pinBind, Rtx.pinDrive, Rtx.emit] using this

/-- CLOSE (42 R184). -/
theorem Rtx.closePin_ended (cfg : Config) (r : Rtx) : Rtx.Ended cfg r (Rtx.finish r.closePin) := by
  unfold Rtx.closePin
  split
  · exact .answered _ _ (fun _ => rfl)
  · rename_i b hb
    exact .released b hb
  · exact .answered _ _ (fun _ => rfl)

/-- An RTX instruction that runs changes RTX only, in one of the four ways. -/
theorem exec_rtx {i : Instr} (hi : i.onSlp = false) {s t : State} (h : exec i s = .next t) :
    ∃ r, t = { s with rtx := r } ∧ Rtx.Ended s.cfg s.rtx r := by
  cases i <;> simp only [Instr.onSlp, Bool.true_eq_false] at hi <;> simp only [exec] at h
  case rtxOpen pin retries =>
    unfold execRtxOpen at h
    split at h
    · rename_i hx
      cases h
      exact ⟨_, rfl, Rtx.openPin_ended s.cfg pin retries hx⟩
    · cases h
    · cases h
      exact ⟨_, rfl, .answered _ _ (fun _ => rfl)⟩
  case rtxTransmit a u action =>
    cases h
    refine ⟨_, rfl, ?_⟩
    dsimp only
    rcases Rtx.transmit_cases s.cfg a u action s.rtx with ⟨e, he⟩ | ⟨r', he, hr⟩ <;> rw [he]
    · exact .answered _ _ (fun _ => rfl)
    · exact hr
  case rtxTransmitAll action =>
    cases h
    refine ⟨_, rfl, ?_⟩
    dsimp only
    rcases Rtx.transmitAll_cases s.cfg action s.rtx with ⟨e, he⟩ | ⟨r', he, hr⟩ <;> rw [he]
    · exact .answered _ _ (fun _ => rfl)
    · exact hr
  case rtxClose =>
    cases h
    exact ⟨_, rfl, Rtx.closePin_ended s.cfg s.rtx⟩
  case txOn a c =>
    cases h
    exact ⟨_, rfl, Rtx.sendImage_ended ..⟩
  case txOff a c =>
    cases h
    exact ⟨_, rfl, Rtx.sendImage_ended ..⟩
  case sym0 =>
    cases h
    refine ⟨_, rfl, ?_⟩
    dsimp only
    rw [Rtx.sym_eq]
    exact .sent (symEvents _ _) [true]
  case sym1 =>
    cases h
    refine ⟨_, rfl, ?_⟩
    dsimp only
    rw [Rtx.sym_eq]
    exact .sent (symEvents _ _) [true]
  case transmitBits seq =>
    cases h
    refine ⟨_, rfl, ?_⟩
    dsimp only
    rw [Rtx.transmitBits_eq]
    exact .sent _ _
  case build a u action =>
    cases h
    refine ⟨_, rfl, ?_⟩
    rcases buildFrame_cases s.cfg a u action with ⟨f, hf⟩ | ⟨e, he⟩
    · simp only [Rtx.build, hf, Run.andThen_done]
      exact .answered _ _ (fun h => absurd rfl h)
    · simp only [Rtx.build, he, raise_eq, Run.andThen_raised]
      exact .answered _ _ (fun _ => rfl)

/-! ### SLP -/

/-- The ways an instruction of SLP can end, from `t` (43_serial_lifecycle, 60_exceptions R316). -/
inductive Slp.Ended (cfg : Config) (t : Slp) : Slp → Prop where
  /-- its lifecycle state as it was; the early errors, statuses 1 to 7, without any event (60_exceptions R311) -/
  | kept (st : Status) (res : Result) (es : List SlpEvent) (l : Link) (hes : .closed ∉ es)
    (hst : 1 ≤ st.code → st.code ≤ 7 → es = [] ∧ l = t.link) (hres : st ≠ .ok → res = .none) :
    Slp.Ended cfg t ((t.after es l).respond st res)
  /-- through GoInactive -/
  | died (st : Status) (es : List SlpEvent) (l : Link) (held : Bool) (hes : .closed ∉ es)
    (hsc : t.scState ≠ .inactive) (hheld : t.portOpen = true → held = true)
    (hst : 1 ≤ st.code → st.code ≤ 7 → t.scState = .connecting ∧ st = .unsupportedVersion) :
    Slp.Ended cfg t ((Slp.after es l { t with portOpen := held }).goInactive.respond st .none)
  /-- a handshake succeeds -/
  | connected (fw : Firmware) (es : List SlpEvent) (l : Link) (hes : .closed ∉ es) (hsc : t.scState = .connecting)
    (hp : parseVersion fw.verStr = some (fw.verNum, fw.codename)) (hc : fw.codename = cfg.expectedCodename)
    (hv : cfg.minVersion ≤ fw.verNum) :
    Slp.Ended cfg t
      ((Slp.after es l { t with scState := .active fw, portOpen := true }).respond .ok .none)

/-- An answer and nothing else, as an end. -/
theorem Slp.ended_answer {cfg : Config} (t : Slp) (st : Status) (res : Result) (h : st ≠ .ok → res = .none) :
    Slp.Ended cfg t (t.respond st res) := by
  have := Slp.Ended.kept (cfg := cfg) (t := t) st res [] t.link (by simp) (fun _ _ => ⟨rfl, rfl⟩) h
  simpa using this

/-- A failure of an access in the middle of a command, as an end. -/
theorem Slp.ended_died {cfg : Config} {t : Slp} {st : Status} {es : List SlpEvent} (l : Link) (hes : .closed ∉ es)
    (hsc : t.scState ≠ .inactive) (hst : 7 < st.code ∨ st = .ok) :
    Slp.Ended cfg t ((t.after es l).goInactive.respond st .none) := by
  refine Slp.Ended.died (cfg := cfg) (t := t) st es l t.portOpen hes hsc id ?_
  intro h1 h2
  rcases hst with h | h
  · omega
  · subst h
    simp [Status.code] at h1

theorem ioFailure_code : 7 < Status.ioFailure.code ∨ Status.ioFailure = .ok := .inl (by decide)

theorem code_of_exchange {e : Status} (h : e = .ioTimeout ∨ e = .ioFailure) : 7 < e.code ∨ e = .ok := by
  rcases h with rfl | rfl <;> exact .inl (by decide)

/-- A command that only writes, in Active. -/
theorem Slp.sendCmd_ended {cfg : Config} {t : Slp} (hsc : t.scState ≠ .inactive) (bs : List Byte) :
    Slp.Ended cfg t (Slp.finish ((t.sendCmd bs).andThen fun _ t1 => .done .none t1)) := by
  rcases Slp.sendCmd_cases bs t with ⟨l1, l2, -, -, h⟩ | ⟨es, l, hes, h⟩ <;> rw [h]
  · exact .kept _ _ _ _ (by simp) (fun h1 => by simp [Status.code] at h1) (fun _ => rfl)
  · exact Slp.ended_died l hes hsc ioFailure_code

/-- A command of one byte and one line, in Active, whose line is always accepted. -/
theorem Slp.exchange_ended {cfg : Config} {t : Slp} (hsc : t.scState ≠ .inactive) (b : Byte)
    (f : List Byte → Result) :
    Slp.Ended cfg t (Slp.finish ((t.exchange b).andThen fun bs t1 => .done (f bs) t1)) := by
  rcases Slp.exchange_cases b t with ⟨raw, l, h⟩ | ⟨e, es, l, he, hes, h⟩ <;> rw [h]
  · exact .kept _ _ _ _ (by simp) (fun h1 => by simp [Status.code] at h1) (fun h => absurd rfl h)
  · exact Slp.ended_died l hes hsc (code_of_exchange he)

/-- SET_DIGITAL (44 R231). -/
theorem Slp.setDigital_ended (cfg : Config) (pin : Int) (value : Bit) (t : Slp) :
    Slp.Ended cfg t (Slp.finish (Slp.setDigital cfg pin value t)) := by
  rcases Slp.requireActive_cases t with ⟨fw, hs, h⟩ | ⟨hs, h⟩ <;> rw [Slp.setDigital, h]
  · rw [Run.andThen_done]
    split
    · exact Slp.sendCmd_ended (by simp [hs]) _
    · exact Slp.ended_answer _ _ _ (fun _ => rfl)
  · exact Slp.ended_answer _ _ _ (fun _ => rfl)

/-- READ_DIGITAL (44 R233). -/
theorem Slp.readDigital_ended (cfg : Config) (t : Slp) : Slp.Ended cfg t (Slp.finish (t.readDigital cfg)) := by
  rcases Slp.requireActive_cases t with ⟨fw, hs, h⟩ | ⟨hs, h⟩ <;> rw [Slp.readDigital, h]
  · exact Slp.exchange_ended (by simp [hs]) _ _
  · exact Slp.ended_answer _ _ _ (fun _ => rfl)

/-- READ_ANALOG (44 R236). -/
theorem Slp.readAnalog_ended (cfg : Config) (pin : Int) (t : Slp) :
    Slp.Ended cfg t (Slp.finish (Slp.readAnalog cfg pin t)) := by
  rcases Slp.requireActive_cases t with ⟨fw, hs, h⟩ | ⟨hs, h⟩ <;> rw [Slp.readAnalog, h]
  · rw [Run.andThen_done]
    have hn : t.scState ≠ .inactive := by simp [hs]
    split
    · rcases Slp.exchange_cases (readAnalogByte pin.toNat) t with ⟨raw, l, hx⟩ | ⟨e, es, l, he, hes, hx⟩ <;> rw [hx]
      · rw [Run.andThen_done, Slp.analogResult]
        split
        · exact Slp.ended_died l (by simp) hn (.inl (by decide))
        · split
          · exact Slp.ended_died l (by simp) hn (.inl (by decide))
          · exact .kept _ _ _ _ (by simp) (fun h1 => by simp [Status.code] at h1) (fun h => absurd rfl h)
      · exact Slp.ended_died l hes hn (code_of_exchange he)
    · exact Slp.ended_answer _ _ _ (fun _ => rfl)
  · exact Slp.ended_answer _ _ _ (fun _ => rfl)

/-- The version gate before a command (45 R260). -/
theorem Slp.gate_ended {cfg : Config} {v : Nat} {t : Slp} {k : Unit → Slp → Run Slp Result}
    (h : ∀ fw, t.scState = .active fw → Slp.Ended cfg t (Slp.finish (k () t))) :
    Slp.Ended cfg t (Slp.finish ((t.requireGate v).andThen k)) := by
  rcases Slp.requireGate_cases v t with ⟨fw, hs, hg⟩ | ⟨fw, hs, hv, hg⟩ | ⟨hs, hg⟩ <;> rw [hg]
  · exact h fw hs
  · exact Slp.ended_answer _ _ _ (fun _ => rfl)
  · exact Slp.ended_answer _ _ _ (fun _ => rfl)

/-- GET_NAME (45 R261). -/
theorem Slp.getName_ended (cfg : Config) (t : Slp) : Slp.Ended cfg t (Slp.finish (t.getName cfg)) :=
  Slp.gate_ended fun fw hs => Slp.exchange_ended (by simp [hs]) _ _

/-- SAVE_POWER_ON (45 R265). -/
theorem Slp.savePowerOn_ended (cfg : Config) (t : Slp) : Slp.Ended cfg t (Slp.finish (t.savePowerOn cfg)) :=
  Slp.gate_ended fun fw hs => Slp.sendCmd_ended (by simp [hs]) _

/-- READ_POWER_ON (45 R267). -/
theorem Slp.readPowerOn_ended (cfg : Config) (t : Slp) : Slp.Ended cfg t (Slp.finish (t.readPowerOn cfg)) :=
  Slp.gate_ended fun fw hs => Slp.exchange_ended (by simp [hs]) _ _

/-- Sequencing is associative. -/
theorem Run.andThen_assoc {σ α β γ : Type} (m : Run σ α) (f : α → σ → Run σ β) (g : β → σ → Run σ γ) :
    (m.andThen f).andThen g = m.andThen fun a s => (f a s).andThen g := by
  cases m <;> rfl

/-- The first half of STORE_NAME by itself (45 R263; log 6). -/
theorem Slp.sendName_ended (cfg : Config) (name : NameBytes) (t : Slp) :
    Slp.Ended cfg t (Slp.finish ((t.sendName cfg name).andThen fun _ t1 => .done .none t1)) := by
  rw [Slp.sendName, Run.andThen_assoc]
  exact Slp.gate_ended fun fw hs => Slp.sendCmd_ended (by simp [hs]) _

/-- STORE_NAME (45 R263). -/
theorem Slp.storeName_ended (cfg : Config) (name : NameBytes) (t : Slp) :
    Slp.Ended cfg t (Slp.finish (t.storeName cfg name)) := by
  rw [Slp.storeName, Slp.sendName, Run.andThen_assoc]
  refine Slp.gate_ended fun fw hs => ?_
  have hn : t.scState ≠ .inactive := by simp [hs]
  rcases Slp.sendCmd_cases (0x23 :: name) t with ⟨l1, l2, -, -, h⟩ | ⟨es, l, hes, h⟩ <;> rw [h]
  · rw [Run.andThen_done]
    rcases Slp.exchange_cases 0x3D (t.after ((0x23 :: name).map .tx ++ [.flush]) l2) with
      ⟨raw, l, hx⟩ | ⟨e, es, l, he, hes, hx⟩ <;> rw [hx]
    · rw [Run.andThen_done, Slp.after_after]
      split
      · exact .kept _ _ _ _ (by simp) (fun h1 => by simp [Status.code] at h1) (fun _ => rfl)
      · exact .kept _ _ _ _ (by simp) (fun _ h2 => by simp [Status.code] at h2) (fun _ => rfl)
    · rw [Run.andThen_raised, Slp.after_after]
      exact Slp.ended_died l (by simp [hes]) hn (code_of_exchange he)
  · exact Slp.ended_died l hes hn ioFailure_code

/-- CLOSE (43 R208). -/
theorem Slp.close_ended (cfg : Config) (t : Slp) : Slp.Ended cfg t (Slp.finish t.close) := by
  unfold Slp.close
  split
  · exact Slp.ended_answer _ _ _ (fun _ => rfl)
  · rename_i fw hs
    have := Slp.ended_died (cfg := cfg) (t := t) (st := .ok) (es := []) t.link (by simp) (by simp [hs]) (.inr rfl)
    simpa using this
  · exact Slp.ended_answer _ _ _ (fun _ => rfl)

/-- The handshake, the transport open or to be taken as open, after some events (43 R201). -/
theorem Slp.handshake_ended (cfg : Config) (es : List SlpEvent) (l : Link) {t : Slp} (hes : .closed ∉ es)
    (hsc : t.scState = .connecting) :
    Slp.Ended cfg t (Slp.finish (Slp.handshake cfg (Slp.after es l { t with portOpen := true }))) := by
  have hn : t.scState ≠ .inactive := by simp [hsc]
  rw [Slp.handshake]
  rcases Slp.sendCmd_cases [0x60] (Slp.after es l { t with portOpen := true }) with
    ⟨l1, l2, -, -, h⟩ | ⟨es2, l2, hes2, h⟩ <;> rw [h]
  · rw [Run.andThen_done, Slp.after_after]
    rcases Slp.recvLine_cases (Slp.after (es ++ ([0x60].map .tx ++ [.flush])) l2 { t with portOpen := true }) with
      ⟨raw, l3, -, hr⟩ | ⟨e, es3, l3, he, hes3, hr⟩ <;> rw [hr]
    · rw [Run.andThen_done, Slp.after_after, Slp.checkFirmware]
      split
      · exact .died _ _ _ true (by simp [hes]) hn (fun _ => rfl) (fun _ h2 => by simp [Status.code] at h2)
      · rename_i n cn hp
        split
        · exact .died _ _ _ true (by simp [hes]) hn (fun _ => rfl) (fun _ h2 => by simp [Status.code] at h2)
        · rename_i hc
          split
          · exact .died _ _ _ true (by simp [hes]) hn (fun _ => rfl) (fun _ _ => ⟨hsc, rfl⟩)
          · rename_i hv
            exact .connected { verStr := lineContent raw, verNum := n, codename := cn } _ _ (by simp [hes]) hsc hp
              (not_not.mp hc) (by simpa using hv)
    · rw [Run.andThen_raised, Slp.after_after]
      refine .died _ _ _ true (by simp [hes, hes3]) hn (fun _ => rfl) ?_
      intro _ h2
      rcases he with rfl | rfl <;> simp [Status.code] at h2
  · rw [Run.andThen_raised, Slp.after_after]
    exact .died _ _ _ true (by simp [hes, hes2]) hn (fun _ => rfl) (fun _ h2 => by simp [Status.code] at h2)

/-- CONNECT in Connecting (43 R201). -/
theorem Slp.connect_ended (cfg : Config) {t : Slp} (hsc : t.scState = .connecting) :
    Slp.Ended cfg t (Slp.finish (Slp.connect cfg t)) := by
  rw [Slp.connect, Slp.serOpen]
  rcases Slp.access_cases [.opened] t with ⟨l, -, h⟩ | ⟨l, -, h⟩ <;> rw [h]
  · have := Slp.handshake_ended cfg [.opened, .wait cfg.tResetSettle] l (t := t) (by simp) hsc
    simpa [Slp.after, Slp.wait, Slp.emit] using this
  · exact Slp.ended_died l (by simp) (by simp [hsc]) ioFailure_code

/-- An SLP instruction that runs changes SLP only, in one of the three ways. -/
theorem exec_slp {i : Instr} (hi : i.onSlp = true) {s t : State} (h : exec i s = .next t) :
    ∃ u, t = { s with slp := u } ∧ Slp.Ended s.cfg s.slp u := by
  cases i <;> simp only [Instr.onSlp, Bool.false_eq_true] at hi <;> simp only [exec] at h
  case slpConnect =>
    unfold execSlpConnect at h
    split at h
    · rename_i hs
      cases h
      exact ⟨_, rfl, Slp.connect_ended s.cfg hs⟩
    · cases h
    · cases h
      exact ⟨_, rfl, Slp.ended_answer _ _ _ (fun _ => rfl)⟩
  case wQueryVersion =>
    unfold execWQueryVersion at h
    split at h
    · rename_i hs
      cases h
      refine ⟨_, rfl, ?_⟩
      dsimp only
      split
      · rename_i hp
        have := Slp.handshake_ended s.cfg [] s.slp.link (by simp) hs
        rw [← hp] at this
        simpa [Slp.after] using this
      · exact Slp.connect_ended s.cfg hs
    · cases h
    · cases h
      exact ⟨_, rfl, Slp.ended_answer _ _ _ (fun _ => rfl)⟩
  case slpGetVersion =>
    cases h
    refine ⟨_, rfl, ?_⟩
    dsimp only
    rcases Slp.requireActive_cases s.slp with ⟨fw, hs, h⟩ | ⟨hs, h⟩ <;> rw [h]
    · exact Slp.ended_answer _ _ _ (fun h => absurd rfl h)
    · exact Slp.ended_answer _ _ _ (fun _ => rfl)
  case slpGetVersionNumber =>
    cases h
    refine ⟨_, rfl, ?_⟩
    dsimp only
    rcases Slp.requireActive_cases s.slp with ⟨fw, hs, h⟩ | ⟨hs, h⟩ <;> rw [h]
    · exact Slp.ended_answer _ _ _ (fun h => absurd rfl h)
    · exact Slp.ended_answer _ _ _ (fun _ => rfl)
  case slpSetDigital pin value => cases h; exact ⟨_, rfl, Slp.setDigital_ended ..⟩
  case slpReadDigital => cases h; exact ⟨_, rfl, Slp.readDigital_ended ..⟩
  case slpReadAnalog pin => cases h; exact ⟨_, rfl, Slp.readAnalog_ended ..⟩
  case slpGetName => cases h; exact ⟨_, rfl, Slp.getName_ended ..⟩
  case slpStoreName name => cases h; exact ⟨_, rfl, Slp.storeName_ended ..⟩
  case slpSavePowerOn => cases h; exact ⟨_, rfl, Slp.savePowerOn_ended ..⟩
  case slpReadPowerOn => cases h; exact ⟨_, rfl, Slp.readPowerOn_ended ..⟩
  case slpClose => cases h; exact ⟨_, rfl, Slp.close_ended ..⟩
  case wReadDigital => cases h; exact ⟨_, rfl, Slp.readDigital_ended ..⟩
  case wSetHigh pin => cases h; exact ⟨_, rfl, Slp.setDigital_ended ..⟩
  case wSetLow pin => cases h; exact ⟨_, rfl, Slp.setDigital_ended ..⟩
  case wReadAnalog pin => cases h; exact ⟨_, rfl, Slp.readAnalog_ended ..⟩
  case wSavePowerOn => cases h; exact ⟨_, rfl, Slp.savePowerOn_ended ..⟩
  case wReadPowerOn => cases h; exact ⟨_, rfl, Slp.readPowerOn_ended ..⟩
  case wReadName => cases h; exact ⟨_, rfl, Slp.getName_ended ..⟩
  case wStoreName name => cases h; exact ⟨_, rfl, Slp.sendName_ended ..⟩

end Sys2Proof.Machine
end

