-- ==== Sys2Proof/Laws/Step.lean ====
section
/-! SUPPORT. Laws.Step: everything one step can do, said once. -/

namespace Sys2Proof.Machine

/-- A word decoded at a port is an instruction of that port's block (30_encoding R114, R119). -/
theorem decodePortOf_onSlp {cfg : Config} {b : Block} {w : PortWord} {i : Instr} (h : decodePortOf cfg b w = .ok i) :
    i.onSlp = (b == .slp) := by
  unfold decodePortOf at h
  split at h
  · rename_i hb
    unfold decodePort at h
    split at h
    all_goals first | (cases h; done) | skip
    all_goals
      rename_i ho
      simp [opBlock, ho] at hb
      subst hb
      first
        | (cases h; rfl)
        | (split at h <;> cases h; rfl)
  · cases h

@[simp] theorem Position.load_outerIdx (cfg : Config) (p : Position) : (p.load cfg).outerIdx = p.outerIdx := rfl
@[simp] theorem Position.load_repIdx (cfg : Config) (p : Position) : (p.load cfg).repIdx = p.repIdx := rfl
@[simp] theorem Position.load_bitIdx (cfg : Config) (p : Position) : (p.load cfg).bitIdx = p.bitIdx := rfl
@[simp] theorem Position.load_phase (cfg : Config) (p : Position) : (p.load cfg).phase = p.phase := rfl
@[simp] theorem Position.load_frameSr (cfg : Config) (p : Position) : (p.load cfg).frameSr = p.frameSr := rfl
@[simp] theorem Position.load_timer (cfg : Config) (p : Position) : (p.load cfg).timer = p.interval cfg := rfl

/-- A clock in the middle of an interval only counts the timer down (70 R357). -/
theorem Rtx.tick_counting {cfg : Config} {r : Rtx} {b : Binding} {p : Position} (hb : r.txState = .opened b)
    (hp : r.pos = some p) (ht : cfg.tick < p.timer) :
    r.tick cfg = { r with pos := some { p with timer := p.timer - cfg.tick } } := by
  simp [Rtx.tick, hb, hp, ht]

/-- The clock that ends an interval records its one Wait and enters the next (70 R357; log 30). -/
theorem Rtx.tick_expired {cfg : Config} {r : Rtx} {b : Binding} {p : Position} (hb : r.txState = .opened b)
    (hp : r.pos = some p) (ht : p.timer ≤ cfg.tick) :
    r.tick cfg = (r.wait (p.interval cfg)).nextPhase cfg b p := by
  simp [Rtx.tick, hb, hp, ht]

theorem enterHigh_txTrace (cfg : Config) (o n i : Nat) (f : BitSequence) (r : Rtx) :
    (Rtx.enterHigh cfg o n i f r).txTrace = r.txTrace ++ [.drive .high] := rfl

theorem nextFrame_txTrace (cfg : Config) (o n : Nat) (p : Position) (r : Rtx) :
    (Rtx.nextFrame cfg o n p r).txTrace = r.txTrace ++ [.drive .high] := rfl

/-- A clock only appends to the trace (20_memory R75). -/
theorem Rtx.tick_txTrace (cfg : Config) (r : Rtx) : r.txTrace <+: (r.tick cfg).txTrace := by
  unfold Rtx.tick
  split
  · split
    · simp
    · unfold Rtx.nextPhase
      split
      · simp [Rtx.wait]
      · split <;> simp [Rtx.wait, enterHigh_txTrace]
      · split
        · simp [Rtx.wait, nextFrame_txTrace]
        · split <;> simp [Rtx.wait, nextFrame_txTrace]
  · simp

/-- A clock changes nothing of a block that is not Open. -/
theorem Rtx.tick_of_not_opened (cfg : Config) {r : Rtx} (h : ∀ b, r.txState ≠ .opened b) : r.tick cfg = r := by
  unfold Rtx.tick
  split
  · rename_i b p hb hp
    exact absurd hb (h b)
  · rfl

theorem step_of_notReset {s : State} (hn : s.NotReset) :
    step s = match s.mover with
      | some .rtx => stepRtx s
      | some .slp => stepSlp s
      | none => stepImage s := by
  refine (if_neg (by simp [hn.1, hn.2])).trans ?_
  rcases s.mover with _ | b
  · rfl
  · cases b <;> rfl

theorem latch_of_mover_rtx {s : State} (hm : s.mover = some .rtx) (hp : s.rtx.pos = none) : s.rtx.latch = none := by
  unfold State.mover Rtx.canMove Rtx.cmdReady at hm
  rw [hp] at hm
  cases hl : s.rtx.latch with
  | none => rfl
  | some x =>
    rw [hl] at hm
    cases hs : s.slp.canMove <;> simp [hs] at hm

theorem latch_of_mover_slp {s : State} (hm : s.mover = some .slp) : s.slp.latch = none := by
  unfold State.mover Slp.canMove Slp.cmdReady at hm
  cases hl : s.slp.latch with
  | none => rfl
  | some x =>
    rw [hl] at hm
    cases hs : s.rtx.canMove <;> simp [hs] at hm

theorem pos_of_mover_none {s : State} (hm : s.mover = none) : s.rtx.pos = none := by
  unfold State.mover Rtx.canMove at hm
  cases hp : s.rtx.pos with
  | none => rfl
  | some x =>
    rw [hp] at hm
    cases hs : s.slp.canMove <;> simp [hs] at hm

/-- Everything a step without a reset can do: nothing, a clock of a running transmission, a command accepted and run at a
port, or an image of the slot run. -/
theorem step_cases {s t : State} (h : step s = .next t) (hn : s.NotReset) :
    t = s ∨
      (∃ p, s.rtx.pos = some p ∧ t = { s with rtx := s.rtx.tick s.cfg }) ∨
      (∃ w r, s.rtx.pos = none ∧ s.rtx.latch = none ∧ t = { s with rtx := r } ∧
        Rtx.Ended s.cfg { s.rtx with cmd := none, latch := some w } r) ∨
      (∃ w u, s.slp.latch = none ∧ t = { s with slp := u } ∧
        Slp.Ended s.cfg { s.slp with cmd := none, latch := some w } u) ∨
      (∃ r, s.rtx.pos = none ∧ t = { s with rtx := r, image := none } ∧ Rtx.Ended s.cfg s.rtx r) ∨
      (∃ u, t = { s with slp := u, image := none } ∧ Slp.Ended s.cfg s.slp u) := by
  rw [step_of_notReset hn] at h
  split at h
  · rename_i hm
    unfold stepRtx at h
    split at h
    · rename_i hp
      obtain ⟨p, hp⟩ := Option.isSome_iff_exists.1 hp
      cases h
      exact .inr (.inl ⟨p, hp, rfl⟩)
    · rename_i hp
      have hp : s.rtx.pos = none := by simpa using hp
      split at h
      · cases h
        exact .inl rfl
      · rename_i w hw
        unfold runDecoded at h
        split at h
        · rename_i i hd
          obtain ⟨r, rfl, he⟩ := exec_rtx (decodePortOf_onSlp hd) h
          exact .inr (.inr (.inl ⟨w, r, hp, latch_of_mover_rtx hm hp, rfl, he⟩))
        · cases h
  · rename_i hm
    unfold stepSlp at h
    split at h
    · cases h
      exact .inl rfl
    · rename_i w hw
      unfold runDecoded at h
      split at h
      · rename_i i hd
        obtain ⟨u, rfl, he⟩ := exec_slp (decodePortOf_onSlp hd) h
        exact .inr (.inr (.inr (.inl ⟨w, u, latch_of_mover_slp hm, rfl, he⟩)))
      · cases h
  · rename_i hm
    unfold stepImage at h
    split at h
    · cases h
      exact .inl rfl
    · unfold runDecoded at h
      split at h
      · rename_i i hd
        cases hi : i.onSlp
        · obtain ⟨r, rfl, he⟩ := exec_rtx hi h
          exact .inr (.inr (.inr (.inr (.inl ⟨r, pos_of_mover_none hm, rfl, he⟩))))
        · obtain ⟨u, rfl, he⟩ := exec_slp hi h
          exact .inr (.inr (.inr (.inr (.inr ⟨u, rfl, he⟩))))
      · cases h

end Sys2Proof.Machine
end

