-- ==== Sys2Proof/Laws/Wave.lean ====
section
/-! SUPPORT. Laws.Wave: the waveform of the events RTX appends. -/

namespace Sys2Proof.Machine

theorem totalWait_append (xs ys : List RtxEvent) : totalWait (xs ++ ys) = totalWait xs + totalWait ys := by
  induction xs with
  | nil => simp [totalWait]
  | cons e xs ih => cases e <;> simp [totalWait, ih, Nat.add_assoc]

@[simp] theorem waveFrom_nil (c : Option Level) : waveFrom c [] = [] := by cases c <;> rfl

@[simp] theorem waveFrom_drive (c : Option Level) (l : Level) (es : List RtxEvent) :
    waveFrom c (.drive l :: es) = waveFrom (some l) es := by cases c <;> rfl

@[simp] theorem waveFrom_wait (l : Level) (d : Nat) (es : List RtxEvent) :
    waveFrom (some l) (.wait d :: es) = pushSegment l d (waveFrom (some l) es) := rfl

@[simp] theorem waveFrom_bind (c : Option Level) (p : Int) (es : List RtxEvent) :
    waveFrom c (.bind p :: es) = waveFrom c es := by cases c <;> rfl

@[simp] theorem waveFrom_release (c : Option Level) (p : Int) (es : List RtxEvent) :
    waveFrom c (.release p :: es) = waveFrom c es := by cases c <;> rfl

theorem pushSegment_push (l : Level) (a b : Nat) (w : List (Level × Nat)) :
    pushSegment l a (pushSegment l b w) = pushSegment l (a + b) w := by
  cases w with
  | nil => simp [pushSegment]
  | cons seg w =>
    obtain ⟨l', d⟩ := seg
    by_cases h : l = l' <;> simp [pushSegment, h, Nat.add_assoc]

/-- Two waits at one level are one wait on the wire (10_state R24). -/
theorem waveFrom_wait_wait (l : Level) (a b : Nat) (es : List RtxEvent) :
    waveFrom (some l) (.wait a :: .wait b :: es) = waveFrom (some l) (.wait (a + b) :: es) := by
  simp [pushSegment_push]

/-- The level a trace ends at. -/
def lastLevel : Option Level → List RtxEvent → Option Level
  | c, [] => c
  | _, .drive l :: es => lastLevel (some l) es
  | c, .wait _ :: es => lastLevel c es
  | c, .bind _ :: es => lastLevel c es
  | c, .release _ :: es => lastLevel c es

/-- Appending a HIGH segment first to a waveform that does not begin HIGH. -/
theorem pushSegment_high_low (h d : Nat) (w : List (Level × Nat)) :
    pushSegment .high h (pushSegment .low d w) = (.high, h) :: pushSegment .low d w := by
  cases w with
  | nil => simp [pushSegment]
  | cons seg w =>
    obtain ⟨l', d'⟩ := seg
    cases l' <;> simp [pushSegment]

/-- The waveform of one symbol before other events: its two segments, the LOW one merging with a LOW level that
follows (40 R134 c). -/
theorem waveFrom_sym (cfg : Config) (c : Option Level) (b : Bit) (es : List RtxEvent) :
    waveFrom c (symEvents cfg b ++ es) =
      (.high, high cfg b) :: pushSegment .low (low cfg b) (waveFrom (some .low) es) := by
  simp [symEvents, pushSegment_high_low]

end Sys2Proof.Machine
end

