-- ==== Sys2Proof/Tests/Slice0.lean ====
section
/-! SUPPORT. Tests of the model: expected results are the vectors of spec/95_test_vectors.md (named in each comment) or
words written out from the encodings of spec/30_encoding.md; then a witness for the hypotheses of each obligation. -/

namespace Sys2Proof.Tests

open Sys2Proof.Machine

/-! ### Small states -/

/-- The bits of a string of 0 and 1 written as a number of decimal digits, most significant first. -/
def bitsOfDigits : Nat → Nat → BitSequence
  | 0, _ => []
  | n + 1, v => bitsOfDigits n (v / 10) ++ [decide (v % 10 = 1)]

/-- UNIT_CODE(1), (3), (4) and (5) of the test table T, and the address patterns of 21, 85 and 255 (R92, R101). -/
def code1 : BitSequence := bitsOfDigits 12 100000000001
def code3 : BitSequence := bitsOfDigits 12 001000000100
def code5 : BitSequence := bitsOfDigits 12 000010010000
def addr21 : BitSequence := bitsOfDigits 8 00010101
def addr85 : BitSequence := bitsOfDigits 8 01010101
def addr255 : BitSequence := bitsOfDigits 8 11111111

/-- The bytes of the code name SerialArduinoGpio (43 R203, 30 R100). -/
def codeNameBytes : List Byte :=
  [0x53, 0x65, 0x72, 0x69, 0x61, 0x6C, 0x41, 0x72, 0x64, 0x75, 0x69, 0x6E, 0x6F, 0x47, 0x70, 0x69, 0x6F]

/-- The constants with the test table T, pin 17 valid and 99 not (95_test_vectors, conventions). -/
def cfgT : Config where
  unitCode := #v[code1, bitsOfDigits 12 010000000010, code3, bitsOfDigits 12 000100001000, code5]
  validPins := [17]
  baud := 9600
  tResetSettle := 1000
  tick := 20

/-- Right after reset, with the test constants. -/
def fresh : State := { State.reset with cfg := cfgT }

/-- RTX Open on pin 17, the line LOW. -/
def opened (retries : Nat) : State :=
  { fresh with rtx := { Rtx.reset with txState := .opened { pin := 17, retries := retries, line := .low } } }

/-- RTX Closed. -/
def rtxClosed : State := { fresh with rtx := { Rtx.reset with txState := .closed } }

/-- The bytes of `V<digit>_SerialArduinoGpio`. -/
def versionLine (digit : Byte) : List Byte := 0x56 :: digit :: 0x5F :: codeNameBytes

/-- SLP in a lifecycle state, with given answers; the transport is held while Active. -/
def slpIn (sc : ScState) (held : Bool) (io : List IoAnswer) (reads : List ReadAnswer) : State :=
  { fresh with
    slp := { Slp.reset with
      scState := sc
      portOpen := held
      link := { io := io, reads := reads, ioUsed := 0, readUsed := 0 } } }

/-- SLP Active with a version number, with given answers. -/
def activeV (v : Nat) (io : List IoAnswer) (reads : List ReadAnswer) : State :=
  slpIn (.active { verStr := versionLine 0x32, verNum := v, codename := codeNameBytes }) true io reads

/-- SLP in Connecting, with given answers. -/
def connectingWith (io : List IoAnswer) (reads : List ReadAnswer) : State := slpIn .connecting false io reads

/-- SLP Inactive. -/
def inactiveS : State := slpIn .inactive false [] []

/-- The name 0123456789ABCDEF (vectors E15). -/
def n16 : NameBytes :=
  [0x30, 0x31, 0x32, 0x33, 0x34, 0x35, 0x36, 0x37, 0x38, 0x39, 0x41, 0x42, 0x43, 0x44, 0x45, 0x46]

/-- A name that begins with a line feed. -/
def nameLF : NameBytes := List.replicate 16 0x0A

def rtxAfter : Out → Option Rtx
  | .next s => some s.rtx
  | .fault _ => none
  | .refused _ => none

def slpAfter : Out → Option Slp
  | .next s => some s.slp
  | .fault _ => none
  | .refused _ => none

def traceAfter (o : Out) : Option (List RtxEvent) := (rtxAfter o).map (·.txTrace)
def rspAfter (o : Out) : Option (Option Response) := (rtxAfter o).map (·.rsp)
def slTraceAfter (o : Out) : Option (List SlpEvent) := (slpAfter o).map (·.slTrace)
def slRspAfter (o : Out) : Option (Option Response) := (slpAfter o).map (·.rsp)
def slStateAfter (o : Out) : Option ScState := (slpAfter o).map (·.scState)

/-! ### Well-formedness: each check refuses an ill-formed term (30_encoding R102, R103, R110, 20_memory R70) -/

theorem test_wf_wSetHigh : (Instr.wSetHigh 1).wf cfgT = false ∧ (Instr.wSetHigh 14).wf cfgT = false ∧
    (Instr.wSetHigh 2).wf cfgT = true ∧ (Instr.wSetHigh 13).wf cfgT = true := by decide

theorem test_wf_wSetLow : (Instr.wSetLow 1).wf cfgT = false ∧ (Instr.wSetLow 14).wf cfgT = false ∧
    (Instr.wSetLow 2).wf cfgT = true ∧ (Instr.wSetLow 13).wf cfgT = true := by decide

theorem test_wf_wReadAnalog : (Instr.wReadAnalog 8).wf cfgT = false ∧ (Instr.wReadAnalog 7).wf cfgT = true := by
  decide

theorem test_wf_name : (Instr.slpStoreName (n16.drop 1)).wf cfgT = false ∧
    (Instr.wStoreName (0 :: n16)).wf cfgT = false ∧ (Instr.slpStoreName n16).wf cfgT = true ∧
    (Instr.wStoreName n16).wf cfgT = true := by decide

theorem test_wf_txOn : (Instr.txOn addr21 (bitsOfDigits 12 0)).wf cfgT = false ∧
    (Instr.txOn (addr21.drop 1) code1).wf cfgT = false ∧ (Instr.txOn addr21 code1).wf cfgT = true := by decide

theorem test_wf_txOff : (Instr.txOff addr21 (bitsOfDigits 12 0)).wf cfgT = false ∧
    (Instr.txOff (false :: addr21) code5).wf cfgT = false ∧ (Instr.txOff addr21 code5).wf cfgT = true := by decide

/-! ### Decoding: each constructor from a word written out from its encoding (30_encoding) -/

/-- R119: the RTX command words. -/
theorem test_decode_rtx :
    decode cfgT (.port { op := 0x10, pin := 17, retries := 6 }) = .ok (.rtxOpen 17 6) ∧
    decode cfgT (.port { op := 0x11, address := 21, unit := 1, action := true }) = .ok (.rtxTransmit 21 1 .on) ∧
    decode cfgT (.port { op := 0x12, action := false }) = .ok (.rtxTransmitAll .off) ∧
    decode cfgT (.port { op := 0x13 }) = .ok .rtxClose := ⟨rfl, rfl, rfl, rfl⟩

/-- R119: the SLP command words. -/
theorem test_decode_slp :
    decode cfgT (.port { op := 0x20 }) = .ok .slpConnect ∧ decode cfgT (.port { op := 0x21 }) = .ok .slpGetVersion ∧
    decode cfgT (.port { op := 0x22 }) = .ok .slpGetVersionNumber ∧
    decode cfgT (.port { op := 0x23, pin := 13, value := true }) = .ok (.slpSetDigital 13 true) ∧
    decode cfgT (.port { op := 0x24 }) = .ok .slpReadDigital ∧
    decode cfgT (.port { op := 0x25, pin := 5 }) = .ok (.slpReadAnalog 5) ∧
    decode cfgT (.port { op := 0x26 }) = .ok .slpGetName ∧
    decode cfgT (.port { op := 0x27, name := n16 }) = .ok (.slpStoreName n16) ∧
    decode cfgT (.port { op := 0x28 }) = .ok .slpSavePowerOn ∧ decode cfgT (.port { op := 0x29 }) = .ok .slpReadPowerOn ∧
    decode cfgT (.port { op := 0x2A }) = .ok .slpClose := ⟨rfl, rfl, rfl, rfl, rfl, rfl, rfl, rfl, rfl, rfl, rfl⟩

/-- R114: an unlisted word names no command; nor does a word of the other block (log 29), nor a name of another length
(20_memory R70). -/
theorem test_decode_illegal :
    decodePortOf cfgT .rtx { op := 0x20 } = .error (.illegalOpcode 0x20) ∧
    decodePortOf cfgT .slp { op := 0x13 } = .error (.illegalOpcode 0x13) ∧
    decode cfgT (.port { op := 0x14 }) = .error (.illegalOpcode 0x14) ∧
    decode cfgT (.port { op := 0x2B }) = .error (.illegalOpcode 0x2B) ∧
    decode cfgT (.port { op := 0x27, name := n16.drop 1 }) = .error (.nameLength 15) := ⟨rfl, rfl, rfl, rfl, rfl⟩

/-- R102, R103, R109, R118: the bytes of the wire images. -/
theorem test_decode_wire :
    decode cfgT (.wire [0x60]) = .ok .wQueryVersion ∧ decode cfgT (.wire [0x3F]) = .ok .wReadDigital ∧
    decode cfgT (.wire [0x43]) = .ok (.wSetHigh 2) ∧ decode cfgT (.wire [0x4E]) = .ok (.wSetHigh 13) ∧
    decode cfgT (.wire [0x63]) = .ok (.wSetLow 2) ∧ decode cfgT (.wire [0x6E]) = .ok (.wSetLow 13) ∧
    decode cfgT (.wire [0x30]) = .ok (.wReadAnalog 0) ∧ decode cfgT (.wire [0x37]) = .ok (.wReadAnalog 7) ∧
    decode cfgT (.wire [0x2B]) = .ok .wSavePowerOn ∧ decode cfgT (.wire [0x2D]) = .ok .wReadPowerOn ∧
    decode cfgT (.wire [0x3D]) = .ok .wReadName ∧ decode cfgT (.wire (0x23 :: n16)) = .ok (.wStoreName n16) :=
  ⟨rfl, rfl, rfl, rfl, rfl, rfl, rfl, rfl, rfl, rfl, rfl, rfl⟩

/-- R109, R111: what is no command of the wire. -/
theorem test_decode_wire_reject :
    decode cfgT (.wire [0x41]) = .error (.notACommandByte 0x41) ∧ decode cfgT (.wire [0x42]) = .error (.notACommandByte 0x42) ∧
    decode cfgT (.wire [0x38]) = .error (.notACommandByte 0x38) ∧ decode cfgT (.wire [0x23, 0x30]) = .error .shortName ∧
    decode cfgT (.wire []) = .error .emptyStream ∧ decode cfgT (.wire [0x3F, 0x3F]) = .error .trailingBytes :=
  ⟨rfl, rfl, rfl, rfl, rfl, rfl⟩

/-- V-41.20 to V-41.23: the frames as strings of bits. -/
theorem test_decode_frame :
    decode cfgT (.frame (bitsOfDigits 25 0001010110000000000100110)) = .ok (.txOn addr21 code1) ∧
    decode cfgT (.frame (bitsOfDigits 25 0101010100100000010011000)) = .ok (.txOff addr85 code3) ∧
    decode cfgT (.frame (bitsOfDigits 25 0000000000001001000011000)) = .ok (.txOff (bitsOfDigits 8 0) code5) ∧
    decode cfgT (.frame (bitsOfDigits 25 1111111101000000001000110)) = .ok (.txOn addr255 (bitsOfDigits 12 010000000010)) :=
  ⟨rfl, rfl, rfl, rfl⟩

/-- R110: an action field that is neither 0011 nor 1100, an end bit 1, and another length. -/
theorem test_decode_frame_reject :
    decode cfgT (.frame (bitsOfDigits 25 0001010110000000000100010)) = .error .frameAction ∧
    decode cfgT (.frame (bitsOfDigits 25 0001010110000000000100111)) = .error .frameEnd ∧
    decode cfgT (.frame (bitsOfDigits 24 001010110000000000100110)) = .error .frameLength := ⟨rfl, rfl, rfl⟩

/-- R91: the two symbols; the internal rows stand for themselves (log 5). -/
theorem test_decode_rest :
    decode cfgT (.symbol false) = .ok .sym0 ∧ decode cfgT (.symbol true) = .ok .sym1 ∧
    decode cfgT (.bits [true, false]) = .ok (.transmitBits [true, false]) ∧
    decode cfgT (.buildRequest 21 1 .on) = .ok (.build 21 1 .on) := ⟨rfl, rfl, rfl, rfl⟩

/-- The numbers of V-41.20 and V-41.21, and one-byte rows, as words of the opcode table; 0x41 is no command of SLP. -/
theorem test_decode_table :
    decodeTableWord 32 0x02B0026 = some (.txOn addr21 code1) ∧
    decodeTableWord 25 0x0AA4098 = some (.txOff addr85 code3) ∧
    decodeTableWord 8 0x10 = some (.rtxOpen 0 0) ∧ decodeTableWord 8 0x4E = some (.wSetHigh 13) ∧
    decodeTableWord 8 0x41 = none ∧ decodeTableWord 8 0 = some .sym0 := ⟨rfl, rfl, rfl, rfl, rfl, rfl⟩

/-! ### RTX -/

/-- V-40.1 -/
theorem test_sym0 : traceAfter (exec .sym0 (opened 1)) =
    some [.drive .high, .wait 180, .drive .low, .wait 540] := by decide

/-- V-40.2 -/
theorem test_sym1 : traceAfter (exec .sym1 (opened 1)) =
    some [.drive .high, .wait 540, .drive .low, .wait 180] := by decide

/-- V-40.3 -/
theorem test_transmitBits_empty : traceAfter (exec (.transmitBits []) (opened 1)) = some [] := by decide

/-- V-40.7 -/
theorem test_transmitBits_wave : (traceAfter (exec (.transmitBits [true, true, false, false]) (opened 1))).map wave =
    some [(.high, 540), (.low, 180), (.high, 540), (.low, 180), (.high, 180), (.low, 540), (.high, 180), (.low, 540)] := by
  decide

/-- V-41.20 -/
theorem test_build : rspAfter (exec (.build 21 1 .on) fresh) =
    some (some ⟨.ok, .frame (bitsOfDigits 25 0001010110000000000100110)⟩) := by decide

/-- V-41.8 to V-41.11 -/
theorem test_build_errors : rspAfter (exec (.build 256 1 .on) fresh) = some (some ⟨.invalidAddress, .none⟩) ∧
    rspAfter (exec (.build 21 0 .on) fresh) = some (some ⟨.invalidUnit, .none⟩) ∧
    rspAfter (exec (.build 21 6 .on) fresh) = some (some ⟨.invalidUnit, .none⟩) ∧
    rspAfter (exec (.build 256 6 .on) fresh) = some (some ⟨.invalidAddress, .none⟩) := by decide

/-- V-42.1 -/
theorem test_open : (rtxAfter (exec (.rtxOpen 17 6) fresh)).map (fun r => (r.txState, r.txTrace)) =
    some (.opened { pin := 17, retries := 6, line := .low }, [.bind 17, .drive .low]) := by decide

/-- V-42.2, V-42.4, V-42.5, V-42.19 -/
theorem test_open_errors : rspAfter (exec (.rtxOpen 99 6) fresh) = some (some ⟨.invalidPin, .none⟩) ∧
    rspAfter (exec (.rtxOpen 17 (-2)) fresh) = some (some ⟨.invalidRetryCount, .none⟩) ∧
    rspAfter (exec (.rtxOpen 99 0) fresh) = some (some ⟨.invalidPin, .none⟩) ∧
    rspAfter (exec (.rtxOpen 17 6) rtxClosed) = some (some ⟨.closed, .none⟩) := by decide

/-- V-42.9 with T: the waveform's first and last segments, and its sum. -/
theorem test_transmit :
    ((traceAfter (exec (.rtxTransmit 21 1 .on) (opened 1))).map fun es =>
      (es.length, totalWait es, (wave es).take 8, (wave es).getLast?)) =
    some (101, 23000, [(.high, 180), (.low, 540), (.high, 180), (.low, 540), (.high, 180), (.low, 540), (.high, 540),
      (.low, 180)], some (.low, 5540)) := by decide +kernel

/-- V-42.17, V-60.2, V-60.3 -/
theorem test_transmit_errors : rspAfter (exec (.rtxTransmit 999 9 .on) rtxClosed) = some (some ⟨.closed, .none⟩) ∧
    rspAfter (exec (.rtxTransmit 999 9 .on) (opened 1)) = some (some ⟨.invalidAddress, .none⟩) ∧
    rspAfter (exec (.rtxTransmit 21 9 .on) (opened 1)) = some (some ⟨.invalidUnit, .none⟩) := by decide

/-- E21 step 2: four frames for two retries. -/
theorem test_transmitAll :
    ((traceAfter (exec (.rtxTransmitAll .off) (opened 2))).map fun es => (es.length, totalWait es)) =
    some (404, 92000) := by decide +kernel

/-- V-42.15, V-42.16 -/
theorem test_close : ((rtxAfter (exec .rtxClose (opened 1))).map fun r => (r.txState, r.txTrace)) =
    some (.closed, [.release 17]) ∧
    ((rtxAfter (exec .rtxClose rtxClosed)).map fun r => (r.txState, r.txTrace)) = some (.closed, []) := by decide

/-- V-41.20 and R92: one frame and its idle; a code of no unit. -/
theorem test_txOn : ((traceAfter (exec (.txOn addr21 code1) (opened 6))).map fun es => (es.length, totalWait es)) =
    some (101, 23000) ∧ rspAfter (exec (.txOn addr21 (bitsOfDigits 12 0)) (opened 6)) = some (some ⟨.invalidUnit, .none⟩) := by decide +kernel

/-- V-41.21: HIGH time 7380. -/
theorem test_txOff : ((traceAfter (exec (.txOff addr85 code3) (opened 6))).map fun es =>
    levelTime .high (wave es)) = some 7380 := by decide +kernel

/-! ### SLP: lifecycle -/

/-- V-43.1 with the line ended by 0D 0A. -/
theorem test_connect :
    ((slpAfter (exec .slpConnect (connectingWith [.ok, .ok, .ok] [.line (versionLine 0x32 ++ [0x0D, 0x0A])]))).map
      fun t => (t.scState, t.slTrace)) =
    some (.active { verStr := versionLine 0x32, verNum := 2, codename := codeNameBytes },
      [.opened, .wait 1000, .tx 0x60, .flush, .rx (.line (versionLine 0x32))]) := by decide

/-- V-43.5, V-43.12 -/
theorem test_connect_failures :
    slRspAfter (exec .slpConnect (connectingWith [.ok, .ok, .ok] [.line (versionLine 0x31 ++ [0x0A])])) =
      some (some ⟨.unsupportedVersion, .none⟩) ∧
    slTraceAfter (exec .slpConnect (connectingWith [.fail] [])) = some [] := by decide

/-- V-43.10 from the query on. -/
theorem test_wQueryVersion :
    slTraceAfter (exec .wQueryVersion (slpIn .connecting true [.ok, .ok] [.timeout])) =
      some [.tx 0x60, .flush, .rx .timeout, .closed] := by decide

/-- E13, after V-43.1. -/
theorem test_versions :
    slRspAfter (exec .slpGetVersion (activeV 2 [] [])) = some (some ⟨.ok, .bytes (versionLine 0x32)⟩) ∧
    slRspAfter (exec .slpGetVersionNumber (activeV 2 [] [])) = some (some ⟨.ok, .number 2⟩) ∧
    slRspAfter (exec .slpGetVersionNumber inactiveS) = some (some ⟨.inactive, .none⟩) := by decide

/-- E13: CLOSE, and a second CLOSE. -/
theorem test_slpClose : slTraceAfter (exec .slpClose (activeV 2 [] [])) = some [.closed] ∧
    slTraceAfter (exec .slpClose inactiveS) = some [] := by decide

/-! ### SLP: pins -/

/-- V-44.4 -/
theorem test_setDigital : slTraceAfter (exec (.slpSetDigital 13 false) (activeV 2 [.ok, .ok] [])) =
    some [.tx 0x6E, .flush] := by decide

/-- V-44.6, V-44.8, V-44.10 -/
theorem test_setDigital_errors :
    slRspAfter (exec (.slpSetDigital 1 true) (activeV 2 [] [])) = some (some ⟨.invalidPin, .none⟩) ∧
    slRspAfter (exec (.slpSetDigital 14 true) (activeV 2 [] [])) = some (some ⟨.invalidPin, .none⟩) ∧
    slTraceAfter (exec (.slpSetDigital 5 true) (activeV 2 [.fail] [])) = some [.closed] := by decide

/-- V-44.1, V-44.2 as wire images. -/
theorem test_wSet : slTraceAfter (exec (.wSetHigh 2) (activeV 2 [.ok, .ok] [])) = some [.tx 0x43, .flush] ∧
    slTraceAfter (exec (.wSetLow 2) (activeV 2 [.ok, .ok] [])) = some [.tx 0x63, .flush] := by decide

/-- V-44.11: the line cDeFgHijKLmN, and the mapping of E3 as the port's bits. -/
theorem test_readDigital :
    ((slRspAfter (exec .slpReadDigital (activeV 2 [.ok, .ok]
      [.line [0x63, 0x44, 0x65, 0x46, 0x67, 0x48, 0x69, 0x6A, 0x4B, 0x4C, 0x6D, 0x4E, 0x0A]]))).join.map fun r =>
        match r.result with
        | .pins m => (m.presentBits cfgT, m.valBits cfgT fun _ => true)
        | _ => ([], [])) = some (bitsOfDigits 12 111111111111, bitsOfDigits 12 010101001101) := by decide

/-- V-44.14: the last letter of a pin decides; as the wire image. -/
theorem test_wReadDigital :
    ((slRspAfter (exec .wReadDigital (activeV 2 [.ok, .ok] [.line [0x43, 0x63, 0x0A]]))).join.map fun r =>
        match r.result with
        | .pins m => (m.get 2, m.get 3)
        | _ => (none, none)) = some (some false, none) := by decide

/-- V-44.18, V-44.20 -/
theorem test_readAnalog :
    slRspAfter (exec (.slpReadAnalog 7) (activeV 2 [.ok, .ok] [.line [0x31, 0x30, 0x32, 0x33, 0x0A]])) =
      some (some ⟨.ok, .number 1023⟩) ∧
    slRspAfter (exec (.slpReadAnalog 3) (activeV 2 [.ok, .ok] [.line [0x30, 0x35, 0x31, 0x32, 0x0A]])) =
      some (some ⟨.ok, .number 512⟩) := by decide

/-- V-44.21, V-44.23 -/
theorem test_readAnalog_errors :
    slTraceAfter (exec (.slpReadAnalog 3) (activeV 2 [.ok, .ok] [.line [0x31, 0x30, 0x32, 0x34, 0x0A]])) =
      some [.tx 0x33, .flush, .rx (.line [0x31, 0x30, 0x32, 0x34]), .closed] ∧
    slRspAfter (exec (.slpReadAnalog 8) (activeV 2 [] [])) = some (some ⟨.invalidPin, .none⟩) := by decide

/-- V-44.17 as the wire image. -/
theorem test_wReadAnalog : slRspAfter (exec (.wReadAnalog 0) (activeV 2 [.ok, .ok] [.line [0x30, 0x0A]])) =
    some (some ⟨.ok, .number 0⟩) := by decide

/-! ### SLP: the remote store -/

/-- V-45.1, V-45.2 -/
theorem test_getName :
    slRspAfter (exec .slpGetName (activeV 2 [.ok, .ok] [.line (n16 ++ [0x0A])])) =
      some (some ⟨.ok, .bytes n16⟩) ∧
    slRspAfter (exec .wReadName (activeV 2 [.ok, .ok] [.line [0x0A]])) = some (some ⟨.ok, .bytes []⟩) := by decide

/-- V-45.3 -/
theorem test_storeName :
    ((slpAfter (exec (.slpStoreName n16) (activeV 2 [.ok, .ok, .ok, .ok] [.line (n16 ++ [0x0A])]))).map
      fun t => (t.slTrace.length, t.rsp)) = some (21, some ⟨.ok, .none⟩) := by decide

/-- V-45.5, V-45.8 -/
theorem test_storeName_errors :
    slRspAfter (exec (.slpStoreName n16)
      (activeV 2 [.ok, .ok, .ok, .ok] [.line (n16.take 15 ++ [0x0A])])) = some (some ⟨.nameMismatch, .none⟩) ∧
    slRspAfter (exec (.slpStoreName n16) (activeV 1 [] [])) = some (some ⟨.unsupportedVersion, .none⟩) := by decide

/-- R93 format F-B17: 17 bytes and a flush, no line. -/
theorem test_wStoreName : slTraceAfter (exec (.wStoreName n16) (activeV 2 [.ok, .ok] [])) =
    some (.tx 0x23 :: n16.map .tx ++ [.flush]) := by decide

/-- V-45.10, V-45.9 -/
theorem test_savePowerOn : slTraceAfter (exec .slpSavePowerOn (activeV 2 [.ok, .ok] [])) = some [.tx 0x2B, .flush] ∧
    slTraceAfter (exec .wSavePowerOn (activeV 2 [.ok, .ok] [])) = some [.tx 0x2B, .flush] ∧
    slRspAfter (exec .slpSavePowerOn (activeV 1 [] [])) = some (some ⟨.unsupportedVersion, .none⟩) := by decide

/-- V-45.11, V-45.13 -/
theorem test_readPowerOn :
    slRspAfter (exec .slpReadPowerOn (activeV 2 [] [])) = some (some ⟨.unsupportedVersion, .none⟩) ∧
    slTraceAfter (exec .wReadPowerOn (activeV 10 [.ok, .ok] [.line [0x63, 0x0A]])) =
      some [.tx 0x2D, .flush, .rx (.line [0x63])] := by decide

/-! ### The step -/

/-- V-42.1 through the command port. -/
theorem test_step_port :
    (rtxAfter (step { fresh with rtx := { fresh.rtx with cmd := some { op := 0x10, pin := 17, retries := 6 } } })).map
      (fun r => (r.cmd, r.latch, r.rsp)) = some (none, none, some ⟨.ok, .none⟩) := by decide

/-- A word placed by withFetchWord runs in the very next step (log 9). -/
theorem test_withFetchWord : slTraceAfter (step ((activeV 2 [.ok, .ok] []).withFetchWord 8 0x2B)) =
    some [.tx 0x2B, .flush] := by decide

/-! ### Witnesses: for each obligation with hypotheses, states and operands that meet them, each clause at its bounds -/

/-- The answers given, none used. -/
def lk (io : List IoAnswer) (reads : List ReadAnswer) : Link := { io := io, reads := reads, ioUsed := 0, readUsed := 0 }

theorem lk_ok2 (reads : List ReadAnswer) : Link.OkTimes 2 (lk [.ok, .ok] reads) (lk [] reads) :=
  ⟨_, rfl, _, rfl, rfl⟩

/-- The line of a sufficient version, and one of another code name. -/
def goodLine : List Byte := versionLine 0x32 ++ [0x0A]

theorem witness_PulseDurations : cfgT.TimingOk ∧ cfgT.DocumentedTiming := by decide

theorem witness_SymSendsOnePulse :
    (Instr.sym1 = .sym0 ∧ true = false ∨ Instr.sym1 = .sym1 ∧ true = true) ∧
    (opened 1).rtx.txState = .opened { pin := 17, retries := 1, line := .low } ∧
    (∀ d, fresh.rtx.txState ≠ .opened d) := ⟨.inr ⟨rfl, rfl⟩, rfl, fun _ h => (nomatch h)⟩

theorem witness_TransmitBitsSendsItsSymbols :
    (opened 1).rtx.txState = .opened { pin := 17, retries := 1, line := .low } ∧ [true] ≠ ([] : BitSequence) ∧
    (∀ d, fresh.rtx.txState ≠ .opened d) := ⟨rfl, by simp, fun _ h => (nomatch h)⟩

theorem witness_SequenceTiming : cfgT.TimingOk := by decide

theorem witness_WaveformCarriesTheBits : cfgT.TimingOk := by decide

/-- Addresses and units at the ends of their ranges, and just outside them. -/
theorem witness_BuildAnswersTheFourFields :
    ((0 : Int) ≤ 0 ∧ (0 : Int) < 2 ^ cfgT.addrBits) ∧ ((0 : Int) ≤ 255 ∧ (255 : Int) < 2 ^ cfgT.addrBits) ∧
    ((1 : Int) ≤ 1 ∧ (1 : Int) ≤ 5) ∧ ((1 : Int) ≤ 5 ∧ (5 : Int) ≤ 5) ∧ cfgT.FrameOk ∧ cfgT.DocumentedFrame ∧
    ((-1 : Int) < 0 ∨ 2 ^ cfgT.addrBits ≤ (-1 : Int)) ∧ ((256 : Int) < 0 ∨ 2 ^ cfgT.addrBits ≤ (256 : Int)) ∧
    ((0 : Int) < 1 ∨ (5 : Int) < 0) ∧ ((6 : Int) < 1 ∨ (5 : Int) < 6) := by decide

theorem witness_FramesAreTellable : cfgT.DocumentedFrame ∧ cfgT.FrameOk ∧ addr21.length = 8 ∧ code1.length = 12 ∧
    addr21.length = cfgT.addrBits ∧ code1.length = cfgT.unitBits ∧
    frameOf cfgT addr21 code1 .on = frameOf cfgT addr21 code1 .on := by decide

theorem witness_FrameDecodesExactlyItsFields : cfgT.FrameOk := by decide

theorem witness_OpenBindsThePin :
    fresh.rtx.txState = .unbound ∧ (17 : Int) ∈ fresh.cfg.validPins ∧ (1 : Int) ≤ 1 := by decide

theorem witness_OpenRejects :
    (fresh.rtx.txState = .unbound ∧ (99 : Int) ∉ fresh.cfg.validPins) ∧
    (fresh.rtx.txState = .unbound ∧ (17 : Int) ∈ fresh.cfg.validPins ∧ (0 : Int) < 1) ∧
    rtxClosed.rtx.txState = .closed ∧
    (opened 1).rtx.txState = .opened { pin := 17, retries := 1, line := .low } := by decide

/-- Open with one retry and bounds of the operands, and a block that is not Open. -/
theorem witness_TransmitSendsRetriesFrames :
    (opened 1).cfg.FrameOk ∧ rtxClosed.cfg.FrameOk ∧ (∀ b, rtxClosed.rtx.txState ≠ .opened b) ∧ (∀ b, fresh.rtx.txState ≠ .opened b) ∧
    (opened 1).rtx.txState = .opened { pin := 17, retries := 1, line := .low } ∧ 1 ≤ 1 ∧
    ((256 : Int) < 0 ∨ 2 ^ cfgT.addrBits ≤ (256 : Int)) ∧ ((0 : Int) ≤ 255 ∧ (255 : Int) < 2 ^ cfgT.addrBits) ∧
    ((6 : Int) < 1 ∨ (5 : Int) < 6) ∧ ((1 : Int) ≤ 5 ∧ (5 : Int) ≤ 5) :=
  ⟨by decide, by decide, fun _ h => (nomatch h), fun _ h => (nomatch h), rfl, le_rfl, by decide, by decide, by decide, by decide⟩

theorem witness_TransmitAllSendsRetriesSquaredFrames :
    (opened 2).cfg.Ok ∧ (∀ b, rtxClosed.rtx.txState ≠ .opened b) ∧
    (opened 2).rtx.txState = .opened { pin := 17, retries := 2, line := .low } ∧ 1 ≤ 2 :=
  ⟨by decide, fun _ h => (nomatch h), rfl, by decide⟩

theorem witness_RepetitionTiming : cfgT.TimingOk ∧ (frameOf cfgT addr21 code1 .on).length = cfgT.frameBits ∧
    cfgT.DocumentedTiming ∧ cfgT.DocumentedFrame := by decide

theorem witness_FrameEndsInOneLongLow : cfgT.TimingOk ∧ cfgT.endMark = [false] := by decide

theorem witness_CloseReleasesThePin :
    (opened 1).rtx.txState = .opened { pin := 17, retries := 1, line := .low } ∧
    (∀ b, rtxClosed.rtx.txState ≠ .opened b) := ⟨rfl, fun _ h => (nomatch h)⟩

theorem witness_FrameImageSendsOneFrame :
    (opened 1).cfg.FrameOk ∧
    (Instr.txOff addr85 code3 = .txOn addr85 code3 ∧ Action.off = .on ∨
      Instr.txOff addr85 code3 = .txOff addr85 code3 ∧ Action.off = .off) ∧
    (∀ b, fresh.rtx.txState ≠ .opened b) ∧
    (opened 1).rtx.txState = .opened { pin := 17, retries := 1, line := .low } ∧
    code3 ∈ (opened 1).cfg.unitCode ∧ bitsOfDigits 12 0 ∉ (opened 1).cfg.unitCode :=
  ⟨by decide, .inr ⟨rfl, rfl⟩, fun _ h => (nomatch h), rfl, Vector.mem_toList_iff.1 (by decide),
    fun h => absurd (Vector.mem_toList_iff.2 h) (by decide)⟩

theorem opened_inv : (opened 2).Inv := by
  constructor
  · refine ⟨?_, ?_, ?_, ?_⟩
    · intro b h
      cases h
      decide
    · intro b h _
      cases h
      rfl
    · intro p h
      cases h
    · intro _
      rfl
  · refine ⟨?_, ?_, ?_, rfl⟩ <;> simp [opened, fresh, State.reset, Slp.reset]

theorem witness_SequencerConformsToTheCommand : ∃ r0 t,
    (opened 2).cfg.Ok ∧ (opened 2).rtx.Inv (opened 2).cfg ∧
    (opened 2).rtx.txState = .opened { pin := 17, retries := 2, line := .low } ∧ (opened 2).rtx.pos = none ∧
    0 < (opened 2).cfg.tick ∧ 0 < (opened 2).cfg.tSettle ∧ (opened 2).cfg.tick ∣ (opened 2).cfg.tHigh0 ∧
    (opened 2).cfg.tick ∣ (opened 2).cfg.tHigh1 ∧ (opened 2).cfg.tick ∣ (opened 2).cfg.tBit ∧
    (opened 2).cfg.tick ∣ (opened 2).cfg.tSettle ∧
    decodePortOf cfgT .rtx { op := 0x12, action := true } = .ok (.rtxTransmitAll .on) ∧
    (opened 2).rtx.acceptTicked (opened 2).cfg { op := 0x12, action := true } = some r0 ∧
    exec (.rtxTransmitAll .on) ((opened 2).acceptRtx { op := 0x12, action := true }) = .next t :=
  ⟨_, _, by decide, opened_inv.1, rfl, rfl, by decide, by decide, by decide, by decide, by decide, by decide, rfl, rfl, rfl⟩

theorem witness_ConnectBecomesActive :
    (connectingWith [.ok, .ok, .ok] [.line goodLine]).slp.scState = .connecting ∧
    Link.OkTimes 3 (connectingWith [.ok, .ok, .ok] [.line goodLine]).slp.link (lk [] [.line goodLine]) ∧
    (lk [] [.line goodLine]).nextRead = (.line goodLine, lk [] []) ∧
    parseVersion (lineContent goodLine) = some (2, cfgT.expectedCodename) ∧ cfgT.minVersion ≤ 2 :=
  ⟨rfl, ⟨_, rfl, _, rfl, _, rfl, rfl⟩, rfl, by decide, by decide⟩

/-- Each access failing in turn; then the three kinds of bad line: malformed, another code name, version 1. -/
theorem witness_ConnectFailuresEndInactive :
    (connectingWith [.fail] []).slp.scState = .connecting ∧
    (connectingWith [.fail] []).slp.link.nextIo = (.fail, lk [] []) ∧
    (lk [.ok, .fail] []).nextIo = (.ok, lk [.fail] []) ∧ (lk [.fail] []).nextIo = (.fail, lk [] []) ∧
    (lk [] [.timeout]).nextRead = (.timeout, lk [] []) ∧ (lk [] [.fail]).nextRead = (.fail, lk [] []) ∧
    parseVersion (lineContent [0x0A]) = none ∧
    (∃ n cn, parseVersion (lineContent [0x56, 0x31, 0x5F, 0x4F, 0x0A]) = some (n, cn) ∧ cn ≠ cfgT.expectedCodename) ∧
    parseVersion (lineContent (versionLine 0x31 ++ [0x0A])) = some (1, cfgT.expectedCodename) ∧
    1 < cfgT.minVersion :=
  ⟨rfl, rfl, rfl, rfl, rfl, rfl, by decide, ⟨1, [0x4F], by decide⟩, by decide, by decide⟩

theorem witness_QueryImageCompletesTheHandshake :
    (connectingWith [] []).slp.portOpen = false ∧
    (slpIn .connecting true [.ok, .ok] [.line goodLine]).slp.scState = .connecting ∧
    Link.OkTimes (if (slpIn .connecting true [.ok, .ok] [.line goodLine]).slp.portOpen then 2 else 3)
      (slpIn .connecting true [.ok, .ok] [.line goodLine]).slp.link (lk [] [.line goodLine]) ∧
    (lk [] [.line goodLine]).nextRead = (.line goodLine, lk [] []) ∧
    parseVersion (lineContent goodLine) = some (2, cfgT.expectedCodename) ∧ cfgT.minVersion ≤ 2 :=
  ⟨rfl, rfl, ⟨_, rfl, _, rfl, rfl⟩, rfl, by decide, by decide⟩

/-- The metadata `activeV` holds. -/
def fwV (v : Nat) : Firmware := { verStr := versionLine 0x32, verNum := v, codename := codeNameBytes }

theorem witness_ConnectIsRefusedWhileActive : (activeV 2 [] []).slp.scState = .active (fwV 2) := rfl

theorem witness_VersionReadsAnswerTheCache : (activeV 2 [] []).slp.scState = .active (fwV 2) := rfl

theorem witness_SlpCloseReleasesTheTransport :
    (activeV 2 [] []).slp.scState = .active (fwV 2) ∧ (∀ fw, inactiveS.slp.scState ≠ .active fw) :=
  ⟨rfl, fun _ h => (nomatch h)⟩

theorem witness_CommandsFailWhileNotActive :
    Instr.slpGetVersion.onSlp = true ∧ Instr.slpGetVersion ≠ .slpClose ∧ Instr.slpGetVersion ≠ .slpConnect ∧
    Instr.wReadName.onSlp = true ∧ Instr.wReadName ≠ .slpClose ∧ Instr.wReadName ≠ .wQueryVersion ∧
    (∀ fw, fresh.slp.scState ≠ .active fw) ∧ Instr.slpConnect.onSlp = true ∧ Instr.slpConnect ≠ .slpClose ∧
    Instr.wQueryVersion.onSlp = true ∧ (Instr.wQueryVersion = .slpConnect ∨ Instr.wQueryVersion = .wQueryVersion) ∧
    inactiveS.slp.scState = .inactive :=
  ⟨rfl, by decide, by decide, rfl, by decide, by decide, fun _ h => (nomatch h), rfl, by decide, rfl, .inr rfl, rfl⟩

theorem witness_SetDigitalWritesOneByte :
    (∀ fw, fresh.slp.scState ≠ .active fw) ∧ (activeV 2 [.ok, .ok] []).slp.scState = .active (fwV 2) ∧
    ((1 : Int) < cfgT.dpinMin ∨ cfgT.dpinMax < (1 : Int)) ∧ ((14 : Int) < cfgT.dpinMin ∨ cfgT.dpinMax < (14 : Int)) ∧
    (cfgT.dpinMin ≤ (2 : Int) ∧ (2 : Int) ≤ cfgT.dpinMax) ∧ (cfgT.dpinMin ≤ (13 : Int) ∧ (13 : Int) ≤ cfgT.dpinMax) ∧
    (((0x4E : Byte).toNat : Int) = (if true then 0x41 else 0x61) + 13) ∧
    (((0x63 : Byte).toNat : Int) = (if false then 0x41 else 0x61) + 2) ∧
    Link.OkTimes 2 (activeV 2 [.ok, .ok] []).slp.link (lk [] []) ∧
    (activeV 2 [.fail] []).slp.link.nextIo = (.fail, lk [] []) ∧
    (activeV 2 [.ok, .fail] []).slp.link.nextIo = (.ok, lk [.fail] []) ∧ (lk [.fail] []).nextIo = (.fail, lk [] []) :=
  ⟨fun _ h => (nomatch h), rfl, by decide, by decide, by decide, by decide, by decide, by decide, lk_ok2 [], rfl, rfl, rfl⟩

theorem witness_ReadDigitalDecodesTheLine :
    (∀ fw, fresh.slp.scState ≠ .active fw) ∧ (activeV 2 [.ok, .ok] [.line []]).slp.scState = .active (fwV 2) ∧
    (activeV 2 [.fail] []).slp.link.nextIo = (.fail, lk [] []) ∧
    (activeV 2 [.ok, .fail] []).slp.link.nextIo = (.ok, lk [.fail] []) ∧
    Link.OkTimes 2 (activeV 2 [.ok, .ok] [.line []]).slp.link (lk [] [.line []]) ∧
    (lk [] [.line []]).nextRead = (.line [], lk [] []) ∧ (lk [] [.timeout]).nextRead = (.timeout, lk [] []) ∧
    (lk [] [.fail]).nextRead = (.fail, lk [] []) :=
  ⟨fun _ h => (nomatch h), rfl, rfl, rfl, lk_ok2 _, rfl, rfl, rfl⟩

/-- Pins -1, 0, 7, 8; the numerals 1023 and 1024, and a line that is no numeral. -/
theorem witness_ReadAnalogAnswersTheNumeral :
    (Instr.wReadAnalog 7 = .slpReadAnalog 7 ∨ ((0 : Int) ≤ 7 ∧ Instr.wReadAnalog 7 = .wReadAnalog (7 : Int).toNat)) ∧
    (activeV 2 [.ok, .ok] []).slp.scState = .active (fwV 2) ∧ ((-1 : Int) < cfgT.apinMin ∨ cfgT.apinMax < (-1 : Int)) ∧
    ((8 : Int) < cfgT.apinMin ∨ cfgT.apinMax < (8 : Int)) ∧ (cfgT.apinMin ≤ (0 : Int) ∧ (0 : Int) ≤ cfgT.apinMax) ∧
    (cfgT.apinMin ≤ (7 : Int) ∧ (7 : Int) ≤ cfgT.apinMax) ∧
    ((0x37 : Byte).toNat : Int) = 0x30 + 7 ∧ Link.OkTimes 2 (activeV 2 [.ok, .ok] [.line []]).slp.link (lk [] [.line []]) ∧
    (lk [] [.line []]).nextRead = (.line [], lk [] []) ∧
    parseInt (lineContent [0x31, 0x30, 0x32, 0x33, 0x0A]) = some 1023 ∧ 1023 ≤ cfgT.analogMax ∧
    parseInt (lineContent [0x0A]) = none ∧
    (∃ v, parseInt (lineContent [0x31, 0x30, 0x32, 0x34, 0x0A]) = some v ∧ cfgT.analogMax < v) :=
  ⟨.inr ⟨by decide, rfl⟩, rfl, by decide, by decide, by decide, by decide, by decide, lk_ok2 _, rfl, by decide, by decide,
    by decide, ⟨1024, by decide⟩⟩

theorem witness_GetNameAnswersTheLine :
    (Instr.wReadName = .slpGetName ∨ Instr.wReadName = .wReadName) ∧
    (activeV 2 [.ok, .ok] [.line []]).slp.scState = .active (fwV 2) ∧ cfgT.vName ≤ (fwV 2).verNum ∧
    Link.OkTimes 2 (activeV 2 [.ok, .ok] [.line []]).slp.link (lk [] [.line []]) ∧
    (lk [] [.line []]).nextRead = (.line [], lk [] []) := ⟨.inr rfl, rfl, by decide, lk_ok2 _, rfl⟩

theorem lk_ok4 (reads : List ReadAnswer) : Link.OkTimes 4 (lk [.ok, .ok, .ok, .ok] reads) (lk [] reads) :=
  ⟨_, rfl, _, rfl, _, rfl, _, rfl, rfl⟩

theorem witness_StoreNameVerifiesByReadingBack :
    (activeV 1 [] []).slp.scState = .active (fwV 1) ∧ (fwV 1).verNum < cfgT.vName ∧
    (activeV 2 [.ok, .ok, .ok, .ok] [.line []]).slp.scState = .active (fwV 2) ∧ cfgT.vName ≤ (fwV 2).verNum ∧
    Link.OkTimes 4 (activeV 2 [.ok, .ok, .ok, .ok] [.line []]).slp.link (lk [] [.line []]) ∧
    (lk [] [.line []]).nextRead = (.line [], lk [] []) := ⟨rfl, by decide, rfl, by decide, lk_ok4 _, rfl⟩

/-- The fourth access failing, and the two failures of the read. -/
theorem witness_StoreNameFailuresEndInactive :
    (activeV 2 [.ok, .ok, .ok, .fail] []).slp.scState = .active (fwV 2) ∧ cfgT.vName ≤ (fwV 2).verNum ∧
    Link.OkTimes 3 (activeV 2 [.ok, .ok, .ok, .fail] []).slp.link (lk [.fail] []) ∧
    Link.OkTimes 0 (activeV 2 [.fail] []).slp.link (lk [.fail] []) ∧
    (lk [.fail] []).nextIo = (.fail, lk [] []) ∧
    Link.OkTimes 4 (activeV 2 [.ok, .ok, .ok, .ok] [.timeout]).slp.link (lk [] [.timeout]) ∧
    (lk [] [.timeout]).nextRead = (.timeout, lk [] []) ∧ (lk [] [.fail]).nextRead = (.fail, lk [] []) :=
  ⟨rfl, by decide, ⟨_, rfl, _, rfl, _, rfl, rfl⟩, rfl, rfl, lk_ok4 _, rfl, rfl⟩

theorem witness_SavePowerOnWritesOneByte :
    (∀ fw, inactiveS.slp.scState ≠ .active fw) ∧ (activeV 1 [] []).slp.scState = .active (fwV 1) ∧
    (fwV 1).verNum < cfgT.vSavePo ∧ (activeV 2 [.ok, .ok] []).slp.scState = .active (fwV 2) ∧
    cfgT.vSavePo ≤ (fwV 2).verNum ∧ Link.OkTimes 2 (activeV 2 [.ok, .ok] []).slp.link (lk [] []) ∧
    (activeV 2 [.fail] []).slp.link.nextIo = (.fail, lk [] []) ∧
    (activeV 2 [.ok, .fail] []).slp.link.nextIo = (.ok, lk [.fail] []) ∧ (lk [.fail] []).nextIo = (.fail, lk [] []) :=
  ⟨fun _ h => (nomatch h), rfl, by decide, rfl, by decide, lk_ok2 _, rfl, rfl, rfl⟩

theorem witness_ReadPowerOnNeedsItsVersion :
    (∀ fw, inactiveS.slp.scState ≠ .active fw) ∧ (activeV 2 [] []).slp.scState = .active (fwV 2) ∧
    (fwV 2).verNum < cfgT.vReadPo ∧ (activeV 3 [.ok, .ok] [.line []]).slp.scState = .active (fwV 3) ∧
    cfgT.vReadPo ≤ (fwV 3).verNum ∧ (activeV 3 [.fail] []).slp.link.nextIo = (.fail, lk [] []) ∧
    (activeV 3 [.ok, .fail] []).slp.link.nextIo = (.ok, lk [.fail] []) ∧ (lk [.fail] []).nextIo = (.fail, lk [] []) ∧
    Link.OkTimes 2 (activeV 3 [.ok, .ok] [.line []]).slp.link (lk [] [.line []]) ∧
    (lk [] [.line []]).nextRead = (.line [], lk [] []) ∧ (lk [] [.timeout]).nextRead = (.timeout, lk [] []) ∧
    (lk [] [.fail]).nextRead = (.fail, lk [] []) :=
  ⟨fun _ h => (nomatch h), rfl, by decide, rfl, by decide, rfl, rfl, rfl, lk_ok2 _, rfl, rfl, rfl⟩

theorem witness_PinQueryImagesAnswerTheLine :
    (Instr.wReadPowerOn = .wReadDigital ∧ (0x2D : Byte) = 0x3F ∧ 3 = 0 ∨
      Instr.wReadPowerOn = .wReadPowerOn ∧ (0x2D : Byte) = 0x2D ∧ 3 = cfgT.vReadPo) ∧
    (activeV 3 [.ok, .ok] [.line []]).slp.scState = .active (fwV 3) ∧ 3 ≤ (fwV 3).verNum ∧
    Link.OkTimes 2 (activeV 3 [.ok, .ok] [.line []]).slp.link (lk [] [.line []]) ∧
    (lk [] [.line []]).nextRead = (.line [], lk [] []) := ⟨.inr ⟨rfl, rfl, rfl⟩, rfl, by decide, lk_ok2 _, rfl⟩

theorem witness_VersionGatesChangeNothing :
    (activeV 1 [] []).slp.scState = .active (fwV 1) ∧
    Instr.wReadName ∈ [Instr.slpGetName, .slpStoreName n16, .wReadName, .wStoreName n16] ∧
    (fwV 1).verNum < cfgT.vName ∧ Instr.slpSavePowerOn ∈ [Instr.slpSavePowerOn, .wSavePowerOn] ∧
    (fwV 1).verNum < cfgT.vSavePo ∧ Instr.wReadPowerOn ∈ [Instr.slpReadPowerOn, .wReadPowerOn] ∧
    (activeV 2 [] []).slp.scState = .active (fwV 2) ∧ (fwV 2).verNum < cfgT.vReadPo :=
  ⟨rfl, by decide, by decide, by decide, by decide, by decide, rfl, by decide⟩

theorem witness_WriteCommandsSendTheirBytes :
    writeCommand cfgT (.wSetHigh 13) = some ([0x4E], 0) ∧ writeCommand cfgT (.wSetLow 2) = some ([0x63], 0) ∧
    writeCommand cfgT (.slpSetDigital 2 true) = some ([0x43], 0) ∧
    writeCommand cfgT (.wStoreName n16) = some (0x23 :: n16, 2) ∧
    (activeV 2 [.ok, .ok] []).slp.scState = .active (fwV 2) ∧ 2 ≤ (fwV 2).verNum ∧
    Link.OkTimes 2 (activeV 2 [.ok, .ok] []).slp.link (lk [] []) :=
  ⟨rfl, rfl, rfl, rfl, rfl, by decide, lk_ok2 _⟩

theorem witness_WriteCommandFailuresEndInactive :
    writeCommand cfgT .wSavePowerOn = some ([0x2B], 2) ∧ (activeV 2 [.fail] []).slp.scState = .active (fwV 2) ∧
    2 ≤ (fwV 2).verNum ∧ (activeV 2 [.fail] []).slp.link.nextIo = (.fail, lk [] []) ∧
    (activeV 2 [.ok, .fail] []).slp.link.nextIo = (.ok, lk [.fail] []) ∧ (lk [.fail] []).nextIo = (.fail, lk [] []) :=
  ⟨rfl, rfl, by decide, rfl, rfl, rfl⟩

theorem witness_LineCommandFailuresEndInactive :
    lineCommand cfgT (.wReadAnalog 7) = some (0x37, 0) ∧ lineCommand cfgT (.slpReadAnalog 0) = some (0x30, 0) ∧
    (activeV 2 [.fail] []).slp.scState = .active (fwV 2) ∧ 0 ≤ (fwV 2).verNum ∧
    (activeV 2 [.fail] []).slp.link.nextIo = (.fail, lk [] []) ∧
    (activeV 2 [.ok, .fail] []).slp.link.nextIo = (.ok, lk [.fail] []) ∧ (lk [.fail] []).nextIo = (.fail, lk [] []) ∧
    (lk [] [.timeout]).nextRead = (.timeout, lk [] []) ∧ (lk [] [.fail]).nextRead = (.fail, lk [] []) :=
  ⟨rfl, rfl, rfl, by decide, rfl, rfl, rfl, rfl, rfl⟩

theorem witness_NameWithLineFeedNeverVerifies : ∃ t r, (0x0A : Byte) ∈ nameLF ∧
    exec (.slpStoreName nameLF) (activeV 2 [.ok, .ok, .ok, .ok] [.line nameLF]) = .next t ∧
    t.slp.rsp = some r := ⟨_, _, by decide, rfl, rfl⟩

theorem witness_LineContentEndsAtTheLineFeed :
    (0x0A : Byte) ∉ [(0x41 : Byte)] ∧ [(0x41 : Byte)].getLast? ≠ some 0x0D := by decide

theorem witness_IntegerLineGrammar : 0 < 1023 ∧ (0x2F : Byte) ∈ [(0x2F : Byte)] ∧ (0x2F : Byte).toNat < 0x30 ∧
    0x39 < (0x3A : Byte).toNat := by decide

/-- The bytes just outside the two ranges of state letters. -/
theorem witness_UnrecognisedBytesAreIgnored : ∀ b ∈ [(0x42 : Byte), 0x4F, 0x62, 0x6F],
    ∀ pin, cfgT.dpinMin ≤ pin → pin ≤ cfgT.dpinMax → b.toNat ≠ 0x41 + pin ∧ b.toNat ≠ 0x61 + pin := by
  intro b hb pin h1 h2
  simp only [cfgT] at h1 h2
  simp only [List.mem_cons, List.not_mem_nil, or_false] at hb
  rcases hb with rfl | rfl | rfl | rfl <;> simp <;> omega

theorem witness_LastStateLetterDecides : cfgT.WireOk ∧ (cfgT.dpinMin ≤ 2 ∧ 2 ≤ cfgT.dpinMax) ∧
    (cfgT.dpinMin ≤ 13 ∧ 13 ≤ cfgT.dpinMax) ∧ (1 < cfgT.dpinMin ∨ cfgT.dpinMax < 1) ∧
    (14 < cfgT.dpinMin ∨ cfgT.dpinMax < 14) := by decide

theorem witness_PinLineRoundTrip : cfgT.WireOk ∧ cfgT.dpinMin ≤ 2 ∧ 2 ≤ cfgT.dpinMax ∧ cfgT.dpinMin ≤ 13 ∧
    13 ≤ cfgT.dpinMax := by decide

theorem witness_EarlyErrorsChangeNothing : ∃ t u,
    exec (.rtxTransmit 256 1 .on) (opened 1) = .next t ∧ (Instr.rtxTransmit 256 1 .on).portBlock = some .rtx ∧
    t.rtx.rsp = some ⟨.invalidAddress, .none⟩ ∧ (1 ≤ Status.invalidAddress.code ∧ Status.invalidAddress.code ≤ 7) ∧
    exec .slpGetName (activeV 1 [] []) = .next u ∧ Instr.slpGetName.portBlock = some .slp ∧
    u.slp.rsp = some ⟨.unsupportedVersion, .none⟩ ∧
    (1 ≤ Status.unsupportedVersion.code ∧ Status.unsupportedVersion.code ≤ 7) ∧
    (activeV 1 [] []).slp.scState ≠ .connecting :=
  ⟨_, _, rfl, rfl, rfl, by decide, rfl, rfl, rfl, by decide, by decide⟩

theorem witness_StatusesOfEachCommand : ∃ t, fresh.cfg.Ok ∧ exec .rtxClose fresh = .next t :=
  ⟨_, by decide, rfl⟩

theorem witness_InstructionsStayInTheirBlock : ∃ t u, exec .sym0 (opened 1) = .next t ∧
    Instr.sym0.onSlp = false ∧ exec .slpClose (activeV 2 [] []) = .next u ∧ Instr.slpClose.onSlp = true :=
  ⟨_, _, rfl, rfl, rfl, rfl⟩

theorem witness_BlocksCommute : ∃ t1 t2, Instr.sym1.onSlp = false ∧ Instr.wReadName.onSlp = true ∧
    exec .sym1 (activeV 2 [.ok, .ok] [.timeout]) = .next t1 ∧
    exec .wReadName (activeV 2 [.ok, .ok] [.timeout]) = .next t2 := ⟨_, _, rfl, rfl, rfl, rfl⟩

/-- A valid TRANSMIT runs clock by clock from here: its accepting cycle. -/
def running : State :=
  { fresh with
    rtx := { Rtx.reset with
      txState := .opened { pin := 17, retries := 2, line := .high }
      txTrace := [.drive .high]
      latch := some { op := 0x11, address := 21, unit := 1, action := true }
      pos := some
        { outerIdx := 0, repIdx := 0, bitIdx := 0, phase := .high, frameSr := frameOf cfgT addr21 code1 .on,
          timer := 180 } } }

theorem running_accepted : (opened 2).rtx.acceptTicked cfgT { op := 0x11, address := 21, unit := 1, action := true } =
    some running.rtx := rfl

/-- 70 R357, 00_scope R6: in the middle of an interval a clock only counts the timer down. -/
theorem test_clock_counts_down : (running.rtx.tick cfgT).txTrace = [.drive .high] ∧
    (running.rtx.tick cfgT).pos.map (·.timer) = some 160 := by decide

/-- The first bit is 0: the nine clocks of its HIGH interval record one Wait(180), then the line falls (40 R131). -/
theorem test_clock_ends_interval : (running.rtx.ticks cfgT 9).txTrace = [.drive .high, .wait 180, .drive .low] ∧
    (running.rtx.ticks cfgT 9).line = some .low ∧ (running.rtx.ticks cfgT 9).pos.map (·.timer) = some 540 := by decide

theorem running_inv : running.Inv := by
  constructor
  · refine ⟨?_, ?_, ?_, ?_⟩
    · intro b h
      cases h
      decide
    · intro b _ h
      cases h
    · intro p h
      cases h
      exact ⟨_, _, rfl, rfl, rfl, by decide, by decide, by decide, by decide, by decide⟩
    · intro h
      cases h
  · refine ⟨?_, ?_, ?_, rfl⟩ <;> simp [running, fresh, State.reset, Slp.reset]

theorem witness_ConstantsNeverChange : ∃ t, step running = .next t := ⟨_, rfl⟩

theorem witness_TracesOnlyGrow : ∃ t, running.NotReset ∧ step running = .next t := ⟨_, by decide, rfl⟩

theorem witness_LifecyclesMoveForward : ∃ t u v w, rtxClosed.NotReset ∧ step rtxClosed = .next t ∧
    rtxClosed.rtx.txState = .closed ∧ running.NotReset ∧ step running = .next w ∧
    running.rtx.txState = .opened { pin := 17, retries := 2, line := .high } ∧
    inactiveS.NotReset ∧ step inactiveS = .next u ∧
    inactiveS.slp.scState = .inactive ∧ (activeV 2 [.fail] []).NotReset ∧
    step ((activeV 2 [.fail] []).withFetchWord 8 0x24) = .next v ∧ (activeV 2 [.fail] []).slp.scState = .active (fwV 2) :=
  ⟨_, _, _, _, by decide, rfl, rfl, by decide, rfl, rfl, by decide, rfl, rfl, by decide, rfl, rfl⟩

theorem witness_EveryStepKeepsTheInvariant : ∃ t, running.Inv ∧ step running = .next t := ⟨_, running_inv, rfl⟩

/-- Words at both ports, the input `turn` choosing one, and no position. -/
def bothWaiting (turn : Block) (w v : PortWord) : State :=
  { fresh with rtx := { Rtx.reset with cmd := some w }, slp := { Slp.reset with cmd := some v }, turn := turn }

/-- RTX's word with nothing at SLP's port, and with a word there and RTX's turn; SLP's word likewise; a running
transmission; an image, a bad one, and an idle machine, no block able to move. -/
theorem witness_StepRunsWhatIsPresented :
    (fresh.NotReset ∧ fresh.rtx.pos = none ∧ fresh.rtx.latch = none ∧ fresh.slp.cmd = none) ∧
    ((bothWaiting .rtx { op := 0x13 } { op := 0x20 }).NotReset ∧
      (bothWaiting .rtx { op := 0x13 } { op := 0x20 }).rtx.cmd = some { op := 0x13 } ∧
      (bothWaiting .rtx { op := 0x13 } { op := 0x20 }).turn = .rtx) ∧
    ((bothWaiting .slp { op := 0x13 } { op := 0x20 }).slp.cmd = some { op := 0x20 } ∧
      (bothWaiting .slp { op := 0x13 } { op := 0x20 }).slp.latch = none ∧
      (bothWaiting .slp { op := 0x13 } { op := 0x20 }).turn = .slp) ∧
    (decodePortOf cfgT .rtx { op := 0x13 } = .ok .rtxClose ∧ decodePortOf cfgT .slp { op := 0x20 } = .ok .slpConnect ∧
      decodePortOf cfgT .rtx { op := 0x20 } = .error (.illegalOpcode 0x20) ∧
      decodePortOf cfgT .slp { op := 0x2B } = .error (.illegalOpcode 0x2B)) ∧
    (running.NotReset ∧ running.rtx.pos.isSome = true ∧ running.slp.cmd = none) ∧
    (fresh.rtx.cmd = none ∧ fresh.image = none ∧
      ({ fresh with image := some (.wire [0x3F]) } : State).image = some (.wire [0x3F]) ∧
      decode cfgT (.wire [0x3F]) = .ok .wReadDigital ∧ decode cfgT (.wire []) = .error .emptyStream) :=
  ⟨⟨by decide, rfl, rfl, rfl⟩, ⟨by decide, rfl, rfl⟩, ⟨rfl, rfl, rfl⟩, ⟨rfl, rfl, rfl, rfl⟩, ⟨by decide, rfl, rfl⟩,
    rfl, rfl, rfl, rfl, rfl⟩

theorem witness_ResetInputsResetTheirBlock :
    (({ running with rtx := { running.rtx with rst := true } } : State).rtx.rst = true ∨
      ({ running with rtx := { running.rtx with rst := true } } : State).slp.rst = true) ∧
    running.slp.rst = false := ⟨.inl rfl, rfl⟩

theorem witness_DecodeOfEncodeIsTheInstruction : cfgT.Ok ∧
    (Instr.wSetHigh 13).wf cfgT = true ∧ (Instr.txOn addr255 code5).wf cfgT = true ∧
    (Instr.slpStoreName n16).wf cfgT = true := by decide

theorem witness_WireStreamSplitsIntoItsCommands : cfgT.Ok ∧
    (∀ i ∈ [Instr.wStoreName n16, .wReadName, .wSetLow 2], i.wf cfgT = true) ∧
    [Instr.wStoreName n16, .wReadName, .wSetLow 2].map (wireBytes cfgT) =
      [0x23 :: n16, [0x3D], [0x63]].map some := ⟨by decide, by decide, rfl⟩

end Sys2Proof.Tests
end

/-! PROOFS. The tick-level sequencer conforms to TRANSMIT and TRANSMIT_ALL (70 R357).

A run of the sequencer is a composition of `Rtx.Clocks`, one for each interval; symbols, bit sequences, repetitions and
the two loops are built up from it along the phases of `Rtx.nextPhase`. -/

namespace Sys2Proof.Machine

/-! ### Event lists with one waveform -/

/-- Two event lists that put the same level on the line for the same time, whatever was driven before and whatever
follows (10_state R24). -/
structure SameLine (xs ys : List RtxEvent) : Prop where
  wave_eq : ∀ c rest, waveFrom c (xs ++ rest) = waveFrom c (ys ++ rest)
  time_eq : totalWait xs = totalWait ys

theorem SameLine.refl (xs : List RtxEvent) : SameLine xs xs := ⟨fun _ _ => rfl, rfl⟩

theorem SameLine.trans {xs ys zs : List RtxEvent} (h : SameLine xs ys) (h' : SameLine ys zs) : SameLine xs zs :=
  ⟨fun c rest => (h.wave_eq c rest).trans (h'.wave_eq c rest), h.time_eq.trans h'.time_eq⟩

/-- What follows a list of events matters only from the level the list ends at. -/
theorem waveFrom_append_congr {xs ys : List RtxEvent} (es : List RtxEvent) {c : Option Level}
    (h : waveFrom (lastLevel c es) xs = waveFrom (lastLevel c es) ys) :
    waveFrom c (es ++ xs) = waveFrom c (es ++ ys) := by
  induction es generalizing c with
  | nil => simpa [lastLevel] using h
  | cons e es ih =>
    cases e with
    | drive l => simpa using ih h
    | wait d =>
      cases c with
      | none => exact ih h
      | some l => simpa using congrArg (pushSegment l d) (ih (c := some l) h)
    | bind p =>
      rw [List.cons_append, List.cons_append, waveFrom_bind, waveFrom_bind]
      exact ih (by cases c <;> exact h)
    | release p =>
      rw [List.cons_append, List.cons_append, waveFrom_release, waveFrom_release]
      exact ih (by cases c <;> exact h)

theorem SameLine.append {xs xs' ys ys' : List RtxEvent} (hx : SameLine xs xs') (hy : SameLine ys ys') :
    SameLine (xs ++ ys) (xs' ++ ys') where
  wave_eq c rest := by
    rw [List.append_assoc, List.append_assoc, hx.wave_eq]
    exact waveFrom_append_congr xs' (hy.wave_eq _ rest)
  time_eq := by rw [totalWait_append, totalWait_append, hx.time_eq, hy.time_eq]

/-- An interval cut in two, its level driven again, is one interval. -/
theorem sameLine_drive_wait_split (l : Level) (a b : Nat) :
    SameLine ([.drive l, .wait a] ++ [.drive l, .wait b]) [.drive l, .wait (a + b)] :=
  ⟨fun c rest => by simp [pushSegment_push], by simp [totalWait]⟩

/-- After the bits of a frame the line is LOW already, so that driving it LOW once more shows nothing (40 R131). -/
theorem waveFrom_bitEvents_drive_low (cfg : Config) (f : BitSequence) (rest : List RtxEvent) :
    waveFrom (some .low) (bitEvents cfg f ++ .drive .low :: rest) = waveFrom (some .low) (bitEvents cfg f ++ rest) := by
  induction f with
  | nil => simp
  | cons b f ih => simp only [bitEvents_cons, List.append_assoc, waveFrom_sym, ih]

/-- A repetition whose idle drives the line LOW again is a repetition on the wire (42 R176). -/
theorem sameLine_repetition (cfg : Config) {f : BitSequence} (hf : f ≠ []) :
    SameLine (bitEvents cfg f ++ [.drive .low, .wait cfg.tSettle]) (repetitionEvents cfg f) where
  wave_eq c rest := by
    obtain ⟨b, f, rfl⟩ := List.exists_cons_of_ne_nil hf
    simp only [repetitionEvents, bitEvents_cons, List.append_assoc, List.cons_append, List.nil_append, waveFrom_sym,
      waveFrom_bitEvents_drive_low]
  time_eq := by simp [repetitionEvents, totalWait_append, totalWait]

/-! ### Clocks -/

theorem Rtx.ticks_add (cfg : Config) (m n : Nat) (r : Rtx) : r.ticks cfg (m + n) = (r.ticks cfg m).ticks cfg n := by
  induction m generalizing r with
  | zero => simp [Rtx.ticks]
  | succ m ih => rw [Nat.succ_add, Rtx.ticks, Rtx.ticks, ih]

theorem Rtx.lineEvents_add (cfg : Config) (m n : Nat) (r : Rtx) :
    r.lineEvents cfg (m + n) = r.lineEvents cfg m ++ (r.ticks cfg m).lineEvents cfg n := by
  induction m generalizing r with
  | zero => simp [Rtx.ticks, Rtx.lineEvents]
  | succ m ih => rw [Nat.succ_add, Rtx.lineEvents, Rtx.lineEvents, ih, Rtx.ticks, List.append_assoc]

/-- TICK divides every interval, and the idle after a frame is not empty (log 21). -/
def TickDivides (cfg : Config) : Prop :=
  0 < cfg.tSettle ∧ cfg.tick ∣ cfg.tHigh0 ∧ cfg.tick ∣ cfg.tHigh1 ∧ cfg.tick ∣ cfg.tBit ∧ cfg.tick ∣ cfg.tSettle

/-- From `r` the clocks of a busy block lead to `r'`; where TICK divides every interval, its line meanwhile is that of
the events `es`, and the clocks take their total time. -/
def Rtx.Clocks (cfg : Config) (r : Rtx) (es : List RtxEvent) (r' : Rtx) : Prop :=
  ∃ n, r.ticks cfg n = r' ∧ (∀ k < n, (r.ticks cfg k).cmdReady = false) ∧
    (TickDivides cfg → SameLine (r.lineEvents cfg n) es ∧ n * cfg.tick = totalWait es)

theorem Rtx.Clocks.trans {cfg : Config} {r r' r'' : Rtx} {es es' : List RtxEvent} (h : r.Clocks cfg es r')
    (h' : r'.Clocks cfg es' r'') : r.Clocks cfg (es ++ es') r'' := by
  obtain ⟨m, rfl, hbusy, hline⟩ := h
  obtain ⟨n, rfl, hbusy', hline'⟩ := h'
  refine ⟨m + n, Rtx.ticks_add .., fun k hk => ?_, fun hd => ?_⟩
  · by_cases hkm : k < m
    · exact hbusy k hkm
    · obtain ⟨j, rfl⟩ := Nat.exists_eq_add_of_le (Nat.le_of_not_lt hkm)
      rw [Rtx.ticks_add]
      exact hbusy' j (by omega)
  · obtain ⟨hs, ht⟩ := hline hd
    obtain ⟨hs', ht'⟩ := hline' hd
    exact ⟨Rtx.lineEvents_add cfg m n r ▸ hs.append hs', by rw [Nat.add_mul, totalWait_append, ht, ht']⟩

theorem Rtx.Clocks.congr {cfg : Config} {r r' : Rtx} {es es' : List RtxEvent} (h : r.Clocks cfg es r')
    (he : SameLine es es') : r.Clocks cfg es' r' := by
  obtain ⟨n, hr, hbusy, hline⟩ := h
  refine ⟨n, hr, hbusy, fun hd => ?_⟩
  obtain ⟨hs, ht⟩ := hline hd
  exact ⟨hs.trans he, ht.trans he.time_eq⟩

/-! ### One interval -/

/-- One clock of a running transmission. -/
theorem Rtx.clocks_one {cfg : Config} {r : Rtx} {b : Binding} {p : Position} (hb : r.txState = .opened b)
    (hp : r.pos = some p) : r.Clocks cfg [.drive b.line, .wait cfg.tick] (r.tick cfg) := by
  refine ⟨1, rfl, fun k hk => ?_, fun _ => ⟨?_, by simp [totalWait]⟩⟩
  · obtain rfl : k = 0 := by omega
    simp [Rtx.ticks, Rtx.cmdReady, hp]
  · simpa [Rtx.lineEvents, Rtx.line, hb] using SameLine.refl _

/-- Whatever the timer holds, its clocks end in the one Wait of the interval and the next phase (70 R357; log 30); they
take the timer's time where TICK divides it (log 21). -/
theorem Rtx.clocks_timer {cfg : Config} (htick : 0 < cfg.tick) {b : Binding} {p : Position} :
    ∀ {r : Rtx}, r.txState = .opened b → r.pos = some p →
      (TickDivides cfg → 0 < p.timer ∧ cfg.tick ∣ p.timer) →
      r.Clocks cfg [.drive b.line, .wait p.timer] ((r.wait (p.interval cfg)).nextPhase cfg b p) := by
  induction ht : p.timer using Nat.strong_induction_on generalizing p with
  | _ t ih =>
  subst ht
  intro r hb hp hdvd
  have hone := Rtx.clocks_one (cfg := cfg) hb hp
  by_cases hlt : cfg.tick < p.timer
  · rw [Rtx.tick_counting hb hp hlt] at hone
    have hrest := ih (p.timer - cfg.tick) (by omega) (p := { p with timer := p.timer - cfg.tick }) rfl
      (r := { r with pos := some { p with timer := p.timer - cfg.tick } }) hb rfl
      fun hd => ⟨by omega, Nat.dvd_sub (hdvd hd).2 dvd_rfl⟩
    have hall := (hone.trans hrest).congr (sameLine_drive_wait_split ..)
    rw [Nat.add_sub_cancel' hlt.le] at hall
    exact hall
  · rw [Rtx.tick_expired hb hp (by omega)] at hone
    obtain ⟨n, hr, hbusy, hline⟩ := hone
    refine ⟨n, hr, hbusy, fun hd => ?_⟩
    obtain ⟨hpos, hdvd⟩ := hdvd hd
    have heq : p.timer = cfg.tick := le_antisymm (by omega) (Nat.le_of_dvd hpos hdvd)
    exact heq ▸ hline hd

/-- Every interval takes time, and TICK divides it (40 R130; log 21). -/
theorem TickDivides.interval {cfg : Config} (hd : TickDivides cfg) (ht : cfg.TimingOk) (p : Position) :
    0 < p.interval cfg ∧ cfg.tick ∣ p.interval cfg := by
  obtain ⟨hsettle, hhigh0, hhigh1, hbit, hdsettle⟩ := hd
  obtain ⟨hpos, h01, h1bit, -⟩ := ht
  have hhigh : ∀ b, 0 < high cfg b ∧ high cfg b < cfg.tBit ∧ cfg.tick ∣ high cfg b := by
    rintro (_ | _)
    · exact ⟨hpos, h01.trans h1bit, hhigh0⟩
    · exact ⟨hpos.trans h01, h1bit, hhigh1⟩
  obtain ⟨hhpos, hhlt, hhdvd⟩ := hhigh (frameBit p.frameSr p.bitIdx)
  unfold Position.interval
  cases p.phase with
  | high => exact ⟨hhpos, hhdvd⟩
  | low => exact ⟨Nat.sub_pos_of_lt hhlt, Nat.dvd_sub hbit hhdvd⟩
  | settle => exact ⟨hsettle, hdsettle⟩

/-- An interval from its start: its level for its nominal duration, then the next phase (70 R357). -/
theorem Rtx.clocks_interval {cfg : Config} (htick : 0 < cfg.tick) (ht : cfg.TimingOk) {r : Rtx} {b : Binding}
    {p : Position} (hb : r.txState = .opened b) (hp : r.pos = some (p.load cfg)) :
    r.Clocks cfg [.drive b.line, .wait (p.interval cfg)] ((r.wait (p.interval cfg)).nextPhase cfg b p) :=
  Rtx.clocks_timer htick hb hp fun hd => hd.interval ht p

/-! ### Symbols and frames -/

/-- A position before its timer is loaded. -/
def Position.unloaded (outer rep bit : Nat) (ph : Phase) (f : BitSequence) : Position :=
  { outerIdx := outer, repIdx := rep, bitIdx := bit, phase := ph, frameSr := f, timer := 0 }

/-- Entering the LOW phase of a bit: the line falls (70 R357). -/
def Rtx.enterLow (cfg : Config) (outer rep bit : Nat) (f : BitSequence) (r : Rtx) : Rtx :=
  { r.pinDrive .low with pos := some ((Position.unloaded outer rep bit .low f).load cfg) }

/-- Entering the idle after a frame: the line stays as it is (70 R357). -/
def Rtx.enterSettle (cfg : Config) (outer rep bit : Nat) (f : BitSequence) (r : Rtx) : Rtx :=
  { r with pos := some ((Position.unloaded outer rep bit .settle f).load cfg) }

theorem Rtx.nextPhase_high (cfg : Config) (b : Binding) (outer rep bit : Nat) (f : BitSequence) (r : Rtx) :
    r.nextPhase cfg b (.unloaded outer rep bit .high f) = r.enterLow cfg outer rep bit f := rfl

theorem Rtx.nextPhase_low (cfg : Config) (b : Binding) (outer rep bit : Nat) (f : BitSequence) (r : Rtx) :
    r.nextPhase cfg b (.unloaded outer rep bit .low f) =
      if bit + 1 < cfg.frameBits then r.enterHigh cfg outer rep (bit + 1) f
      else r.enterSettle cfg outer rep bit f := rfl

/-- A frame built afresh from the latched operands is the frame of the repetition before (20_memory R80). -/
theorem Rtx.nextPhase_settle (cfg : Config) (b : Binding) (outer rep bit : Nat) {f : BitSequence} {w : PortWord}
    (hf : latchedFrame cfg w = some f) {r : Rtx} (hl : r.latch = some w) :
    r.nextPhase cfg b (.unloaded outer rep bit .settle f) =
      if rep + 1 < b.retries then r.enterHigh cfg outer (rep + 1) 0 f
      else if outer + 1 < outerRuns cfg (some w) b.retries then r.enterHigh cfg (outer + 1) 0 0 f
      else r.respond .ok .none := by
  simp [Rtx.nextPhase, Rtx.nextFrame, Position.unloaded, hl, hf]

/-- From the rise of a bit the clocks put its symbol on the line, as SYM does (40 R131). -/
theorem Rtx.clocks_symbol {cfg : Config} (htick : 0 < cfg.tick) (ht : cfg.TimingOk) {r : Rtx} {b : Binding}
    (hb : r.txState = .opened b) (outer rep bit : Nat) (f : BitSequence) :
    (r.enterHigh cfg outer rep bit f).Clocks cfg (symEvents cfg (frameBit f bit))
      (if bit + 1 < cfg.frameBits then (r.sym cfg (frameBit f bit)).enterHigh cfg outer rep (bit + 1) f
      else (r.sym cfg (frameBit f bit)).enterSettle cfg outer rep bit f) := by
  have hrise : (r.enterHigh cfg outer rep bit f).txState = .opened { b with line := .high } :=
    congrArg (TxState.setLine .high) hb
  have hhigh := Rtx.clocks_interval (p := .unloaded outer rep bit .high f) htick ht hrise rfl
  rw [Rtx.nextPhase_high] at hhigh
  have hfall : (((r.enterHigh cfg outer rep bit f).wait (high cfg (frameBit f bit))).enterLow cfg outer rep bit
      f).txState = .opened { b with line := .low } := congrArg (TxState.setLine .low) hrise
  have hlow := Rtx.clocks_interval (p := .unloaded outer rep bit .low f) htick ht hfall rfl
  rw [Rtx.nextPhase_low] at hlow
  exact hhigh.trans hlow

/-- From the rise of a frame's bit the clocks send the rest of the frame, as TRANSMIT_BITS does (40 R133); `sent` is
what they have sent of it. -/
theorem Rtx.clocks_bits {cfg : Config} (htick : 0 < cfg.tick) (ht : cfg.TimingOk) (outer rep : Nat) {seq : BitSequence}
    (hseq : seq ≠ []) {sent f : BitSequence} (hf : sent ++ seq = f) (hlen : f.length = cfg.frameBits) {r : Rtx}
    {b : Binding} (hb : r.txState = .opened b) :
    (r.enterHigh cfg outer rep sent.length f).Clocks cfg (bitEvents cfg seq)
      ((r.transmitBits cfg seq).enterSettle cfg outer rep (cfg.frameBits - 1) f) := by
  induction seq generalizing sent r b with
  | nil => exact absurd rfl hseq
  | cons x seq ih =>
    have hsym := Rtx.clocks_symbol htick ht hb outer rep sent.length f
    have hx : frameBit f sent.length = x := by simp [frameBit, ← hf]
    rw [hx] at hsym
    have hbits : sent.length + seq.length + 1 = cfg.frameBits := by rw [← hlen, ← hf]; simp [Nat.add_assoc]
    by_cases hs : seq = []
    · subst hs
      have hlast : sent.length = cfg.frameBits - 1 := by rw [← hbits, List.length_nil]; rfl
      rw [if_neg (by omega), hlast] at hsym
      simpa [hlast, Rtx.transmitBits] using hsym
    · have hpos := List.length_pos_iff.2 hs
      rw [if_pos (by omega)] at hsym
      have hrest := ih hs (sent := sent ++ [x]) (by simpa using hf) (r := r.sym cfg x) (b := { b with line := .low })
        (by simp [Rtx.sym_eq, hb])
      rw [List.length_append] at hrest
      exact hsym.trans hrest

/-- From the first rise of a frame the clocks send it and its idle, as one repetition of TRANSMIT does (42 R176); the
next repetition, the next inner transmit or the response follows. -/
theorem Rtx.clocks_repetition {cfg : Config} (htick : 0 < cfg.tick) (ht : cfg.TimingOk) {f : BitSequence}
    (hf : f ≠ []) (hlen : f.length = cfg.frameBits) {w : PortWord} (hw : latchedFrame cfg w = some f) {r : Rtx}
    (hl : r.latch = some w) {b : Binding} (hb : r.txState = .opened b) (outer rep : Nat) :
    (r.enterHigh cfg outer rep 0 f).Clocks cfg (repetitionEvents cfg f)
      (if rep + 1 < b.retries then (r.sendFrame cfg f).enterHigh cfg outer (rep + 1) 0 f
      else if outer + 1 < outerRuns cfg (some w) b.retries then (r.sendFrame cfg f).enterHigh cfg (outer + 1) 0 0 f
      else (r.sendFrame cfg f).respond .ok .none) := by
  have hbits := Rtx.clocks_bits htick ht outer rep hf (List.nil_append f) hlen hb
  have hlow : ((r.transmitBits cfg f).enterSettle cfg outer rep (cfg.frameBits - 1) f).txState =
      .opened { b with line := .low } := by
    simp [Rtx.enterSettle, Rtx.transmitBits_eq, TxState.afterBits_opened, hb, hf]
  have hidle := Rtx.clocks_interval (p := .unloaded outer rep (cfg.frameBits - 1) .settle f) htick ht hlow rfl
  rw [Rtx.nextPhase_settle cfg _ _ _ _ hw (w := w)
    (by simp [Rtx.enterSettle, Rtx.transmitBits_eq, Rtx.wait, hl])] at hidle
  exact (hbits.trans hidle).congr (sameLine_repetition cfg hf)

/-! ### The two loops -/

/-- The block after `n` repetitions of a frame (42 R176, R180). -/
def Rtx.afterFrames (cfg : Config) (n : Nat) (f : BitSequence) (r : Rtx) : Rtx :=
  { r with
    txTrace := r.txTrace ++ repetitions cfg n f
    txState := r.txState.afterBits (List.replicate n f).flatten }

theorem Rtx.afterFrames_add (cfg : Config) (m n : Nat) (f : BitSequence) (r : Rtx) :
    r.afterFrames cfg (m + n) f = (r.afterFrames cfg m f).afterFrames cfg n f := by
  simp [Rtx.afterFrames, repetitions_add, ← List.replicate_append_replicate, TxState.afterBits_append]

theorem Rtx.afterFrames_one (cfg : Config) (f : BitSequence) (r : Rtx) : r.afterFrames cfg 1 f = r.sendFrame cfg f := by
  simp [Rtx.afterFrames, Rtx.sendFrame_eq, repetitions]

/-- Sending frames writes `line` only, so that the retry count stays. -/
theorem Rtx.afterFrames_opened (cfg : Config) (n : Nat) (f : BitSequence) {r : Rtx} {b : Binding}
    (hb : r.txState = .opened b) : ∃ b', (r.afterFrames cfg n f).txState = .opened b' ∧ b'.retries = b.retries :=
  ⟨_, (congrArg _ hb).trans (TxState.afterBits_opened ..), rfl⟩

section Loops

variable {cfg : Config} (htick : 0 < cfg.tick) (ht : cfg.TimingOk) {f : BitSequence} (hf : f ≠ [])
  (hlen : f.length = cfg.frameBits) {w : PortWord} (hw : latchedFrame cfg w = some f)
include htick ht hf hlen hw

/-- The repetitions left of one inner transmit, `left` after this one (42 R176). -/
theorem Rtx.clocks_innerTransmit (outer left : Nat) {rep : Nat} {r : Rtx} (hl : r.latch = some w) {b : Binding}
    (hb : r.txState = .opened b) (hleft : rep + 1 + left = b.retries) :
    (r.enterHigh cfg outer rep 0 f).Clocks cfg (repetitions cfg (left + 1) f)
      (if outer + 1 < outerRuns cfg (some w) b.retries then
        (r.afterFrames cfg (left + 1) f).enterHigh cfg (outer + 1) 0 0 f
      else (r.afterFrames cfg (left + 1) f).respond .ok .none) := by
  induction left generalizing rep r b with
  | zero =>
    have hrep := Rtx.clocks_repetition htick ht hf hlen hw hl hb outer rep
    rw [if_neg (by omega), ← Rtx.afterFrames_one] at hrep
    simpa [repetitions] using hrep
  | succ left ih =>
    have hrep := Rtx.clocks_repetition htick ht hf hlen hw hl hb outer rep
    rw [if_pos (by omega), ← Rtx.afterFrames_one] at hrep
    obtain ⟨b', hb', hretries⟩ := Rtx.afterFrames_opened cfg 1 f hb
    have hrest := ih (rep := rep + 1) (r := r.afterFrames cfg 1 f) hl hb' (by omega)
    rw [hretries, ← Rtx.afterFrames_add, Nat.add_comm 1] at hrest
    exact repetitions_succ cfg (left + 1) f ▸ hrep.trans hrest

/-- The inner transmits left of a command, `left` after this one, up to its response (42 R180). -/
theorem Rtx.clocks_outerTransmits (left : Nat) {outer : Nat} {r : Rtx} (hl : r.latch = some w) {b : Binding}
    (hb : r.txState = .opened b) (hretries : 1 ≤ b.retries)
    (hleft : outer + 1 + left = outerRuns cfg (some w) b.retries) :
    (r.enterHigh cfg outer 0 0 f).Clocks cfg (repetitions cfg ((left + 1) * b.retries) f)
      ((r.afterFrames cfg ((left + 1) * b.retries) f).respond .ok .none) := by
  induction left generalizing outer r b with
  | zero =>
    have hinner := Rtx.clocks_innerTransmit htick ht hf hlen hw outer (b.retries - 1) hl hb (rep := 0) (by omega)
    rw [if_neg (by omega), Nat.sub_add_cancel hretries] at hinner
    simpa using hinner
  | succ left ih =>
    have hinner := Rtx.clocks_innerTransmit htick ht hf hlen hw outer (b.retries - 1) hl hb (rep := 0) (by omega)
    rw [if_pos (by omega), Nat.sub_add_cancel hretries] at hinner
    obtain ⟨b', hb', heq⟩ := Rtx.afterFrames_opened cfg b.retries f hb
    have hrest := ih (outer := outer + 1) (r := r.afterFrames cfg b.retries f) hl hb' (heq ▸ hretries)
      (by rw [heq]; omega)
    rw [heq, ← Rtx.afterFrames_add] at hrest
    have hcount : (left + 1 + 1) * b.retries = b.retries + (left + 1) * b.retries := by ring
    rw [hcount, repetitions_add]
    exact hinner.trans hrest

end Loops

/-! ### The command -/

/-- The accepting cycle is that of a valid command: the line rises on its frame (70 R357). -/
theorem Rtx.acceptTicked_eq_some {cfg : Config} {w : PortWord} {r r0 : Rtx} (h : r.acceptTicked cfg w = some r0) :
    ∃ f, latchedFrame cfg w = some f ∧ r0 = Rtx.enterHigh cfg 0 0 0 f { r with cmd := none, latch := some w } := by
  unfold Rtx.acceptTicked at h
  split at h
  · rename_i b f hb hf
    cases h
    exact ⟨f, hf, rfl⟩
  · cases h

/-- A latched frame is what BUILD returns for the word's TRANSMIT, or for the ALL pair if the word is a TRANSMIT_ALL
(41 R155, 42 R180). -/
theorem latchedFrame_eq_some {cfg : Config} {w : PortWord} {f : BitSequence} (h : latchedFrame cfg w = some f) :
    (∃ a u action, decodePortOf cfg .rtx w = .ok (.rtxTransmit a u action) ∧ buildFrame cfg a u action = .ok f) ∨
      (∃ action, decodePortOf cfg .rtx w = .ok (.rtxTransmitAll action) ∧
        buildFrame cfg cfg.allAddress cfg.allUnit action = .ok f) := by
  have hok : ∀ {x : Except Status BitSequence}, x.toOption = some f → x = .ok f := by
    rintro (e | g) hx
    · cases hx
    · exact congrArg Except.ok (Option.some.inj hx)
  unfold latchedFrame at h
  split at h
  · exact .inl ⟨_, _, _, ‹_›, hok h⟩
  · exact .inr ⟨_, ‹_›, hok h⟩
  · cases h

/-- A frame BUILD returns is FRAME_BITS long, and not empty (41 R156 d). -/
theorem latchedFrame_length {cfg : Config} (ho : cfg.FrameOk) {w : PortWord} {f : BitSequence}
    (h : latchedFrame cfg w = some f) : f.length = cfg.frameBits ∧ f ≠ [] := by
  obtain ⟨a, u, action, hbuild⟩ : ∃ a u action, buildFrame cfg a u action = .ok f := by
    rcases latchedFrame_eq_some h with ⟨a, u, action, -, hbuild⟩ | ⟨action, -, hbuild⟩
    · exact ⟨a, u, action, hbuild⟩
    · exact ⟨_, _, action, hbuild⟩
  obtain ⟨code, -, rfl⟩ := buildFrame_eq_ok hbuild
  exact ⟨buildFrame_ok_length ho hbuild, frameOf_ne_nil ho _ _ _⟩

/-- At the operation level a valid TRANSMIT or TRANSMIT_ALL leaves its repetitions and its response: as many inner
transmits as the sequencer counts (42 R176, R180, 10_state R21). -/
theorem exec_latched {s t : State} {b : Binding} {w : PortWord} {i : Instr} {f : BitSequence}
    (hb : s.rtx.txState = .opened b) (hi : decodePortOf s.cfg .rtx w = .ok i) (hf : latchedFrame s.cfg w = some f)
    (h : exec i (s.acceptRtx w) = .next t) :
    t.rtx = Rtx.respond .ok .none
      (Rtx.afterFrames s.cfg (outerRuns s.cfg (some w) b.retries * b.retries) f
        { s.rtx with cmd := none, latch := some w }) := by
  have hb' : ({ s.rtx with cmd := none, latch := some w } : Rtx).txState = .opened b := hb
  rcases latchedFrame_eq_some hf with ⟨a, u, action, hd, hbuild⟩ | ⟨action, hd, hbuild⟩
  all_goals
    obtain rfl := Except.ok.inj (hi.symm.trans hd)
    cases h
  · simp [Rtx.transmit_ok hbuild hb', outerRuns, hd, Rtx.afterFrames]
  · simp [Rtx.transmitAll_ok hbuild hb', outerRuns, hd, Rtx.afterFrames]

/-- An inner transmit at least (10_state R21). -/
theorem outerRuns_pos {cfg : Config} {retries : Nat} (h : 1 ≤ retries) (w : Option PortWord) :
    1 ≤ outerRuns cfg w retries := by
  unfold outerRuns
  split
  · exact h
  · rfl

/-- Settles O19: from the accepting cycle the clocks run through the phases of every repetition of every inner transmit,
each interval one Wait, up to the response the command leaves. -/
theorem sequencerConformsToTheCommand : Obligations.SequencerConformsToTheCommand := by
  unfold Obligations.SequencerConformsToTheCommand
  intro s t b w i r0 hok hinv hb _ htick hi haccept hexec
  obtain ⟨htime, hframe, -, -⟩ := hok
  obtain ⟨f, hf, rfl⟩ := Rtx.acceptTicked_eq_some haccept
  obtain ⟨hlen, hne⟩ := latchedFrame_length hframe hf
  obtain ⟨hretries, -⟩ := hinv.bound b hb
  have hruns := outerRuns_pos (cfg := s.cfg) hretries (some w)
  have hcommand := exec_latched hb hi hf hexec
  have hclocks := Rtx.clocks_outerTransmits htick htime hne hlen hf (outerRuns s.cfg (some w) b.retries - 1)
    (r := { s.rtx with cmd := none, latch := some w }) (outer := 0) rfl hb hretries (by omega)
  rw [Nat.sub_add_cancel hruns, ← hcommand] at hclocks
  obtain ⟨n, hend, hbusy, hline⟩ := hclocks
  refine ⟨n, repetitions s.cfg (outerRuns s.cfg (some w) b.retries * b.retries) f, hend, ?_, hbusy, ?_, ?_⟩
  · simp [hcommand, Rtx.cmdReady]
  · simp [hcommand, Rtx.afterFrames]
  · intro hsettle hhigh0 hhigh1 hbit hdsettle
    obtain ⟨hs, htotal⟩ := hline ⟨hsettle, hhigh0, hhigh1, hbit, hdsettle⟩
    exact ⟨by simpa [wave] using hs.wave_eq none [], htotal⟩

end Sys2Proof.Machine

/-! PROOFS. The machine's own statements (10_state): reset, what a step runs, the lifecycles and the invariant.

The invariant is kept because a step leaves a block as it was, clocks it, resets it, or ends one instruction on it
(`Rtx.Ended`, `Slp.Ended`); each of these keeps its block's invariant by itself. -/

namespace Sys2Proof.Machine

/-! ### What a step does to each part of the machine -/

theorem step_of_reset {s : State} (h : ¬ s.NotReset) : step s = .next s.resetBlocks := by
  refine if_pos ?_
  by_contra hn
  exact h (by simpa using hn)

/-- Without a reset, RTX stays as it was, takes a clock, or ends an instruction; its port and latches apart, that
instruction starts from the block as it was. -/
theorem step_rtx_cases {s t : State} (h : step s = .next t) (hn : s.NotReset) :
    t.rtx = s.rtx ∨ (∃ p, s.rtx.pos = some p ∧ t.rtx = s.rtx.tick s.cfg) ∨
      (s.rtx.pos = none ∧ ∃ c l, Rtx.Ended s.cfg { s.rtx with cmd := c, latch := l } t.rtx) := by
  rcases step_cases h hn with rfl | ⟨p, hp, rfl⟩ | ⟨w, r, hp, -, rfl, he⟩ | ⟨w, u, -, rfl, -⟩ | ⟨r, hp, rfl, he⟩ |
    ⟨u, rfl, -⟩
  · exact .inl rfl
  · exact .inr (.inl ⟨p, hp, rfl⟩)
  · exact .inr (.inr ⟨hp, none, some w, he⟩)
  · exact .inl rfl
  · exact .inr (.inr ⟨hp, s.rtx.cmd, s.rtx.latch, he⟩)
  · exact .inl rfl

/-- Without a reset, SLP stays as it was or ends an instruction, which starts from the block as it was, its port and
latches apart. -/
theorem step_slp_cases {s t : State} (h : step s = .next t) (hn : s.NotReset) :
    t.slp = s.slp ∨ ∃ c l, Slp.Ended s.cfg { s.slp with cmd := c, latch := l } t.slp := by
  rcases step_cases h hn with rfl | ⟨p, -, rfl⟩ | ⟨w, r, -, -, rfl, -⟩ | ⟨w, u, -, rfl, he⟩ | ⟨r, -, rfl, -⟩ |
    ⟨u, rfl, he⟩
  · exact .inl rfl
  · exact .inl rfl
  · exact .inl rfl
  · exact .inr ⟨none, some w, he⟩
  · exact .inl rfl
  · exact .inr ⟨s.slp.cmd, s.slp.latch, he⟩

/-- Settles O51: a step writes the blocks and the image slot only, a reset the blocks only. -/
theorem constantsNeverChange : Obligations.ConstantsNeverChange := by
  unfold Obligations.ConstantsNeverChange
  intro s t h
  by_cases hn : s.NotReset
  · rcases step_cases h hn with rfl | ⟨_, _, rfl⟩ | ⟨_, _, _, _, rfl, _⟩ | ⟨_, _, _, rfl, _⟩ | ⟨_, _, rfl, _⟩ |
      ⟨_, rfl, _⟩ <;> rfl
  · rw [step_of_reset hn] at h
    cases h
    rfl

/-! ### The invariant of a block no command runs on -/

/-- RTX before OPEN, nothing running. -/
theorem Rtx.inv_of_unbound {cfg : Config} {r : Rtx} (hx : r.txState = .unbound) (hp : r.pos = none)
    (hl : r.latch = none) : r.Inv cfg where
  bound b hb := by simp [hx] at hb
  lineLow b hb := by simp [hx] at hb
  running p h := by simp [hp] at h
  latched _ := hl

/-- SLP before CONNECT, no transport held. -/
theorem Slp.inv_of_connecting {cfg : Config} {t : Slp} (hs : t.scState = .connecting) (hp : t.portOpen = false)
    (hc : t.slTrace = []) (hl : t.latch = none) : t.Inv cfg where
  held := by simp [hs, hp]
  accepted fw h := by simp [hs] at h
  closedOnce := by simp [hc]
  latched := hl

/-- Settles O54: after reset no object exists. -/
theorem invariantHoldsAtReset : Obligations.InvariantHoldsAtReset :=
  ⟨Rtx.inv_of_unbound rfl rfl rfl, Slp.inv_of_connecting rfl rfl rfl rfl⟩

theorem Rtx.resetBlock_inv (cfg : Config) (r : Rtx) : r.resetBlock.Inv cfg := Rtx.inv_of_unbound rfl rfl rfl

/-- With nothing latched the reset of SLP empties its trace (70 R341). -/
theorem Slp.Inv.resetBlock {cfg : Config} {t : Slp} (h : t.Inv cfg) : t.resetBlock.Inv cfg :=
  Slp.inv_of_connecting rfl rfl (by simp [Slp.resetBlock, Slp.cmdReady, h.latched]) rfl

/-- A raised reset input leaves each block reset or as it was (70 R340). -/
theorem State.Inv.resetBlocks {s : State} (h : s.Inv) : s.resetBlocks.Inv := by
  obtain ⟨hr, hs⟩ := h
  constructor
  · change (if s.rtx.rst then s.rtx.resetBlock else s.rtx).Inv s.cfg
    split
    · exact Rtx.resetBlock_inv ..
    · exact hr
  · change (if s.slp.rst then s.slp.resetBlock else s.slp).Inv s.cfg
    split
    · exact hs.resetBlock
    · exact hs

/-! ### An instruction keeps the invariant -/

theorem Rtx.Ended.pos_eq_none {cfg : Config} {r r' : Rtx} (h : Rtx.Ended cfg r r') : r'.pos = none := by
  cases h <;> rfl

theorem Rtx.Ended.latch_eq_none {cfg : Config} {r r' : Rtx} (h : Rtx.Ended cfg r r') : r'.latch = none := by
  cases h <;> rfl

/-- A binding RTX may hold between two commands (10_state R20, R23). -/
def Binding.Idle (cfg : Config) (b : Binding) : Prop := 1 ≤ b.retries ∧ b.pin ∈ cfg.validPins ∧ b.line = .low

theorem Rtx.Inv.idle {cfg : Config} {r : Rtx} (h : r.Inv cfg) (hp : r.pos = none) {b : Binding}
    (hb : r.txState = .opened b) : b.Idle cfg :=
  ⟨(h.bound b hb).1, (h.bound b hb).2, h.lineLow b hb hp⟩

theorem Rtx.inv_of_idle {cfg : Config} {r : Rtx} (hp : r.pos = none) (hl : r.latch = none)
    (hb : ∀ b, r.txState = .opened b → b.Idle cfg) : r.Inv cfg where
  bound b h := ⟨(hb b h).1, (hb b h).2.1⟩
  lineLow b h _ := (hb b h).2.2
  running p h := by simp [hp] at h
  latched _ := hl

/-- Writing `line` neither binds a pin nor releases one. -/
theorem TxState.setLine_eq_opened {l : Level} {x : TxState} {b : Binding} (h : x.setLine l = .opened b) :
    ∃ b0, x = .opened b0 ∧ b = { b0 with line := l } := by
  cases x with
  | unbound => cases h
  | opened b0 =>
    cases h
    exact ⟨b0, rfl, rfl⟩
  | closed => cases h

/-- An instruction ends with an idle binding if it began with one: OPEN checks what it binds (42 R171), and the events
of a bit sequence leave the line LOW (10_state R23). -/
theorem Rtx.Ended.idle {cfg : Config} {r r' : Rtx} (h : Rtx.Ended cfg r r')
    (hr : ∀ b, r.txState = .opened b → b.Idle cfg) : ∀ b, r'.txState = .opened b → b.Idle cfg := by
  cases h with
  | answered st res _ => exact hr
  | bound pin retries _ hp hn =>
    rintro b ⟨⟩
    exact ⟨by simp; omega, hp, rfl⟩
  | sent es seq =>
    intro b hb
    rw [Rtx.respond_txState] at hb
    rcases TxState.afterBits_cases seq r.txState with hx | hx <;> rw [hx] at hb
    · exact hr b hb
    · obtain ⟨b0, hb0, rfl⟩ := TxState.setLine_eq_opened hb
      obtain ⟨hn, hp, -⟩ := hr b0 hb0
      exact ⟨hn, hp, rfl⟩
  | released b0 _ =>
    rintro b ⟨⟩

/-- An instruction of RTX keeps the invariant, whatever its port and its latches hold while it runs. -/
theorem Rtx.Inv.ended {cfg : Config} {r r' : Rtx} {c l : Option PortWord} (h : r.Inv cfg) (hp : r.pos = none)
    (he : Rtx.Ended cfg { r with cmd := c, latch := l } r') : r'.Inv cfg :=
  Rtx.inv_of_idle he.pos_eq_none he.latch_eq_none (he.idle fun _ hb => h.idle hp hb)

/-- An instruction of SLP keeps the invariant: the transport is held exactly where the lifecycle state is Active, and
the one event Close is GoInactive's (43 R202, R209). -/
theorem Slp.Inv.ended {cfg : Config} {t u : Slp} {c l : Option PortWord} (h : t.Inv cfg)
    (he : Slp.Ended cfg { t with cmd := c, latch := l } u) : u.Inv cfg := by
  obtain ⟨hheld, haccepted, ⟨honce, hnone⟩, -⟩ := h
  cases he with
  | kept st res es l' hes =>
    have hcount : es.count .closed = 0 := List.count_eq_zero.2 hes
    exact ⟨hheld, haccepted, by simpa [hcount] using ⟨honce, hnone⟩, rfl⟩
  | died st es l' held hes hsc =>
    have hcount : es.count .closed = 0 := List.count_eq_zero.2 hes
    have htrace : t.slTrace.count .closed = 0 := hnone hsc
    refine ⟨by simp, by simp, ⟨?_, by simp⟩, rfl⟩
    cases held <;> simp [hcount, htrace]
  | connected fw es l' hes hsc hparse hname hversion =>
    have hcount : es.count .closed = 0 := List.count_eq_zero.2 hes
    have hsc : t.scState = .connecting := hsc
    have htrace : t.slTrace.count .closed = 0 := hnone (by simp [hsc])
    refine ⟨by simp, ?_, by simp [hcount, htrace], rfl⟩
    rintro _ ⟨⟩
    exact ⟨hparse, hname, hversion⟩

/-! ### A clock keeps the invariant -/

/-- RTX in the middle of a transmission. -/
theorem Rtx.inv_of_position {cfg : Config} {r : Rtx} {b : Binding} {w : PortWord} {p : Position}
    (hb : r.txState = .opened b) (hl : r.latch = some w) (hp : r.pos = some p)
    (hbound : 1 ≤ b.retries ∧ b.pin ∈ cfg.validPins) (hok : p.Ok cfg b w) : r.Inv cfg where
  bound b' hb' := by
    obtain rfl : b = b' := by simpa [hb] using hb'
    exact hbound
  lineLow _ _ h := by simp [hp] at h
  running p' hp' := by
    obtain rfl : p = p' := by simpa [hp] using hp'
    exact ⟨b, w, hb, hl, hok⟩
  latched h := by simp [hp] at h

section Clock

variable {cfg : Config} {r : Rtx} {b : Binding} {w : PortWord} (hb : r.txState = .opened b) (hl : r.latch = some w)
  (hbound : 1 ≤ b.retries ∧ b.pin ∈ cfg.validPins)
include hb hl hbound

/-- The line rises on a bit of the latched command's frame. -/
theorem Rtx.enterHigh_inv {f : BitSequence} {outer rep bit : Nat} (hf : latchedFrame cfg w = some f)
    (hbit : bit < cfg.frameBits) (hrep : rep < b.retries) (houter : outer < outerRuns cfg (some w) b.retries) :
    (Rtx.enterHigh cfg outer rep bit f r).Inv cfg :=
  Rtx.inv_of_position (b := { b with line := .high }) (w := w) (congrArg (TxState.setLine .high) hb) hl rfl hbound
    ⟨hf, hbit, hrep, houter, by simp, le_refl _⟩

/-- A frame built afresh from the latched operands is the frame of the repetition before (20_memory R80). -/
theorem Rtx.nextFrame_inv {p : Position} (hp : p.Ok cfg b w) {outer rep : Nat} (hrep : rep < b.retries)
    (houter : outer < outerRuns cfg (some w) b.retries) : (Rtx.nextFrame cfg outer rep p r).Inv cfg := by
  obtain ⟨hf, hbit, -⟩ := hp
  have hframe : (r.latch.bind (latchedFrame cfg)).getD p.frameSr = p.frameSr := by simp [hl, hf]
  rw [Rtx.nextFrame, hframe]
  exact Rtx.enterHigh_inv hb hl hbound hf (by omega) hrep houter

/-- Every phase leads to a position of the same transmission, or to the response with the line LOW (70 R357). -/
theorem Rtx.nextPhase_inv {p : Position} (hp : p.Ok cfg b w) : (r.nextPhase cfg b p).Inv cfg := by
  have hok := hp
  obtain ⟨hf, hbit, hrep, houter, hline, -⟩ := hp
  unfold Rtx.nextPhase
  split
  case h_1 hphase =>
    exact Rtx.inv_of_position (b := { b with line := .low }) (w := w) (congrArg (TxState.setLine .low) hb) hl rfl
      hbound ⟨hf, hbit, hrep, houter, by simp, le_refl _⟩
  case h_2 hphase =>
    split
    · exact Rtx.enterHigh_inv hb hl hbound hf ‹_› hrep houter
    · exact Rtx.inv_of_position hb hl rfl hbound
        ⟨hf, hbit, hrep, houter, by simpa [hphase] using hline, le_refl _⟩
  case h_3 hphase =>
    split
    · exact Rtx.nextFrame_inv hb hl hbound hok ‹_› houter
    · split
      next hnext =>
        rw [hl] at hnext
        exact Rtx.nextFrame_inv hb hl hbound hok hbound.1 hnext
      next =>
        have hlow : b.line = .low := by
          cases hlevel : b.line with
          | low => rfl
          | high => simp [hlevel, hphase] at hline
        refine Rtx.inv_of_idle rfl rfl fun b' hb' => ?_
        obtain rfl : b = b' := by simpa [hb] using hb'
        exact ⟨hbound.1, hbound.2, hlow⟩

end Clock

/-- A clock keeps the invariant: it counts the timer down, or ends the interval (70 R357). -/
theorem Rtx.Inv.tick {cfg : Config} {r : Rtx} (h : r.Inv cfg) {p : Position} (hp : r.pos = some p) :
    (r.tick cfg).Inv cfg := by
  obtain ⟨b, w, hb, hl, hok⟩ := h.running p hp
  have hbound := h.bound b hb
  by_cases hlt : cfg.tick < p.timer
  · rw [Rtx.tick_counting hb hp hlt]
    obtain ⟨hf, hbit, hrep, houter, hline, htimer⟩ := hok
    exact Rtx.inv_of_position (p := { p with timer := p.timer - cfg.tick }) hb hl rfl hbound
      ⟨hf, hbit, hrep, houter, hline, (Nat.sub_le ..).trans htimer⟩
  · rw [Rtx.tick_expired hb hp (Nat.le_of_not_lt hlt)]
    exact Rtx.nextPhase_inv (r := r.wait (p.interval cfg)) hb hl hbound hok

/-- Settles O55: a step leaves each block as it was, clocks it, ends an instruction on it, or resets it, and each of
these keeps the invariant. -/
theorem everyStepKeepsTheInvariant : Obligations.EveryStepKeepsTheInvariant := by
  unfold Obligations.EveryStepKeepsTheInvariant
  intro s t hinv h
  by_cases hn : s.NotReset
  · obtain ⟨hr, hs⟩ := hinv
    rw [State.Inv, constantsNeverChange s t h]
    constructor
    · rcases step_rtx_cases h hn with heq | ⟨p, hp, heq⟩ | ⟨hp, c, l, he⟩
      · exact heq ▸ hr
      · exact heq ▸ hr.tick hp
      · exact hr.ended hp he
    · rcases step_slp_cases h hn with heq | ⟨c, l, he⟩
      · exact heq ▸ hs
      · exact hs.ended he
  · rw [step_of_reset hn] at h
    cases h
    exact hinv.resetBlocks

/-! ### The lifecycles -/

/-- What becomes of `tx_state` without a reset (10_state R20, 42 R170, R171, R184). -/
inductive TxState.Advances : TxState → TxState → Prop where
  | drives (x : TxState) (l : Level) : TxState.Advances x (x.setLine l)
  | opens (b : Binding) : TxState.Advances .unbound (.opened b)
  | closes (b : Binding) : TxState.Advances (.opened b) .closed

/-- Staying as it is counts as driving the line to the level it has. -/
theorem TxState.Advances.refl (x : TxState) : TxState.Advances x x := by
  cases x with
  | unbound => exact .drives .unbound .low
  | opened b => exact .drives (.opened b) b.line
  | closed => exact .drives .closed .low

theorem TxState.Advances.of_closed {y : TxState} (h : TxState.Advances .closed y) : y = .closed := by
  cases h
  rfl

theorem TxState.Advances.of_opened {b : Binding} {y : TxState} (h : TxState.Advances (.opened b) y) :
    y = .closed ∨ ∃ l, y = .opened { b with line := l } := by
  cases h with
  | drives _ l => exact .inr ⟨l, rfl⟩
  | closes _ => exact .inl rfl

theorem Rtx.Ended.advances {cfg : Config} {r r' : Rtx} (h : Rtx.Ended cfg r r') :
    r.txState.Advances r'.txState := by
  cases h with
  | answered st res _ => exact .refl _
  | bound pin retries hx _ _ => exact hx ▸ .opens _
  | sent es seq =>
    rw [Rtx.respond_txState]
    rcases TxState.afterBits_cases seq r.txState with h | h <;> rw [h]
    · exact .refl _
    · exact .drives _ _
  | released b hx => exact hx ▸ .closes b

theorem Rtx.nextPhase_advances (cfg : Config) (b : Binding) (p : Position) (r : Rtx) :
    r.txState.Advances (r.nextPhase cfg b p).txState := by
  unfold Rtx.nextPhase
  split
  · exact .drives _ .low
  · split
    · exact .drives _ .high
    · exact .refl _
  · split
    · exact .drives _ .high
    · split
      · exact .drives _ .high
      · exact .refl _

theorem Rtx.tick_advances (cfg : Config) (r : Rtx) : r.txState.Advances (r.tick cfg).txState := by
  unfold Rtx.tick
  split
  · split
    · exact .refl _
    · exact Rtx.nextPhase_advances cfg _ _ (r.wait _)
  · exact .refl _

theorem step_txState_advances {s t : State} (h : step s = .next t) (hn : s.NotReset) :
    s.rtx.txState.Advances t.rtx.txState := by
  rcases step_rtx_cases h hn with heq | ⟨p, -, heq⟩ | ⟨-, c, l, he⟩
  · exact heq ▸ .refl _
  · exact heq ▸ Rtx.tick_advances ..
  · exact he.advances

/-- What becomes of `sc_state` without a reset (10_state R30, 43 R200 to R202, R209). -/
inductive ScState.Advances : ScState → ScState → Prop where
  | stays (x : ScState) : ScState.Advances x x
  | connects (fw : Firmware) : ScState.Advances .connecting (.active fw)
  | dies (x : ScState) : ScState.Advances x .inactive

theorem ScState.Advances.of_inactive {y : ScState} (h : ScState.Advances .inactive y) : y = .inactive := by
  cases h <;> rfl

theorem ScState.Advances.of_active {fw : Firmware} {y : ScState} (h : ScState.Advances (.active fw) y) :
    y = .active fw ∨ y = .inactive := by
  cases h with
  | stays => exact .inl rfl
  | dies => exact .inr rfl

theorem Slp.Ended.advances {cfg : Config} {t u : Slp} (h : Slp.Ended cfg t u) : t.scState.Advances u.scState := by
  cases h with
  | kept => exact .stays _
  | died => simpa using .dies _
  | connected fw _ _ _ hsc => exact hsc ▸ .connects fw

theorem step_scState_advances {s t : State} (h : step s = .next t) (hn : s.NotReset) :
    s.slp.scState.Advances t.slp.scState := by
  rcases step_slp_cases h hn with heq | ⟨c, l, he⟩
  · exact heq ▸ .stays _
  · exact he.advances

/-- Settles O53, from what a step can do to each lifecycle state. -/
theorem lifecyclesMoveForward : Obligations.LifecyclesMoveForward := by
  unfold Obligations.LifecyclesMoveForward
  intro s t hn h
  have htx := step_txState_advances h hn
  have hsc := step_scState_advances h hn
  refine ⟨fun hx => ?_, fun b hx => ?_, fun hx => ?_, fun fw hx => ?_⟩
  · rw [hx] at htx
    have hclosed := htx.of_closed
    exact ⟨hclosed, by simp [Rtx.lineOe, hclosed]⟩
  · rw [hx] at htx
    exact htx.of_opened
  · rw [hx] at hsc
    exact hsc.of_inactive
  · rw [hx] at hsc
    exact hsc.of_active

/-! ### What a step runs -/

theorem Rtx.canMove_of_pos {r : Rtx} {p : Position} (hp : r.pos = some p) : r.canMove = true := by
  simp [Rtx.canMove, hp]

theorem Rtx.canMove_of_cmd {r : Rtx} {w : PortWord} (hp : r.pos = none) (hl : r.latch = none) (hc : r.cmd = some w) :
    r.canMove = true := by
  simp [Rtx.canMove, Rtx.cmdReady, hp, hl, hc]

theorem Rtx.canMove_eq_false {r : Rtx} (hp : r.pos = none) (h : r.cmd = none ∨ r.latch ≠ none) :
    r.canMove = false := by
  rcases h with hc | hl
  · simp [Rtx.canMove, hp, hc]
  · simp [Rtx.canMove, Rtx.cmdReady, hp, hl]

theorem Slp.canMove_of_cmd {t : Slp} {w : PortWord} (hl : t.latch = none) (hc : t.cmd = some w) :
    t.canMove = true := by
  simp [Slp.canMove, Slp.cmdReady, hl, hc]

theorem Slp.canMove_eq_false {t : Slp} (h : t.cmd = none ∨ t.latch ≠ none) : t.canMove = false := by
  rcases h with hc | hl
  · simp [Slp.canMove, hc]
  · simp [Slp.canMove, Slp.cmdReady, hl]

/-- RTX moves if it can, and SLP cannot or `turn` chooses RTX (20_memory R76; log 10). -/
theorem step_eq_stepRtx {s : State} (hn : s.NotReset) (hr : s.rtx.canMove = true)
    (ho : s.slp.canMove = false ∨ s.turn = .rtx) : step s = stepRtx s := by
  have hm : s.mover = some .rtx := by
    rcases ho with hs | hturn
    · simp [State.mover, hr, hs]
    · cases hs : s.slp.canMove <;> simp [State.mover, hr, hs, hturn]
  rw [step_of_notReset hn, hm]

theorem step_eq_stepSlp {s : State} (hn : s.NotReset) (hs : s.slp.canMove = true)
    (ho : s.rtx.canMove = false ∨ s.turn = .slp) : step s = stepSlp s := by
  have hm : s.mover = some .slp := by
    rcases ho with hr | hturn
    · simp [State.mover, hr, hs]
    · cases hr : s.rtx.canMove <;> simp [State.mover, hr, hs, hturn]
  rw [step_of_notReset hn, hm]

theorem step_eq_stepImage {s : State} (hn : s.NotReset) (hr : s.rtx.canMove = false) (hs : s.slp.canMove = false) :
    step s = stepImage s := by
  have hm : s.mover = none := by simp [State.mover, hr, hs]
  rw [step_of_notReset hn, hm]

theorem stepRtx_of_cmd {s : State} {w : PortWord} (hp : s.rtx.pos = none) (hc : s.rtx.cmd = some w) :
    stepRtx s = runDecoded (decodePortOf s.cfg .rtx w) (s.acceptRtx w) := by
  simp [stepRtx, hp, hc]

theorem stepSlp_of_cmd {s : State} {w : PortWord} (hc : s.slp.cmd = some w) :
    stepSlp s = runDecoded (decodePortOf s.cfg .slp w) (s.acceptSlp w) := by
  simp [stepSlp, hc]

theorem stepImage_of_image {s : State} {im : Image} (hi : s.image = some im) :
    stepImage s = runDecoded (decode s.cfg im) { s with image := none } := by
  simp [stepImage, hi]

/-- Settles O56: the five cases of `step` without a reset. -/
theorem stepRunsWhatIsPresented : Obligations.StepRunsWhatIsPresented := by
  unfold Obligations.StepRunsWhatIsPresented
  intro s hn
  refine ⟨fun w hp hl hc ho => ?_, fun p hp ho => ?_, fun w hl hc ho => ?_, fun hp hr hs => ?_⟩
  · rw [step_eq_stepRtx hn (Rtx.canMove_of_cmd hp hl hc) (or_assoc.2 ho |>.imp_left Slp.canMove_eq_false),
      stepRtx_of_cmd hp hc]
    exact ⟨fun i hi => by rw [hi]; rfl, fun e he => by rw [he]; rfl⟩
  · rw [step_eq_stepRtx hn (Rtx.canMove_of_pos hp) (or_assoc.2 ho |>.imp_left Slp.canMove_eq_false)]
    simp [stepRtx, hp]
  · rw [step_eq_stepSlp hn (Slp.canMove_of_cmd hl hc) (ho.imp_left fun ⟨hp, h⟩ => Rtx.canMove_eq_false hp h),
      stepSlp_of_cmd hc]
    exact ⟨fun i hi => by rw [hi]; rfl, fun e he => by rw [he]; rfl⟩
  · rw [step_eq_stepImage hn (Rtx.canMove_eq_false hp hr) (Slp.canMove_eq_false hs)]
    refine ⟨fun im i him hi => ?_, fun im e him he => ?_, fun him => by simp [stepImage, him]⟩
    · rw [stepImage_of_image him, hi]
      rfl
    · rw [stepImage_of_image him, he]
      rfl

/-! ### The constants after reset -/

/-- The free unit codes have UNIT_BITS bits each (41 R150; log 1). -/
theorem platform_unitCode_length :
    ∀ code ∈ Config.platform.unitCode.toList, code.length = Config.platform.unitBits := by
  intro code hcode
  obtain ⟨v, -, rfl⟩ := Vector.mem_map.1 (Vector.mem_toList_iff.1 hcode)
  exact v.size_toArray

/-- The documented constants meet the constraints on the parameters (00_scope R5; log 3). -/
theorem platform_ok : Config.platform.Ok :=
  ⟨by decide, ⟨rfl, rfl, rfl, by decide, rfl, platform_unitCode_length⟩, by decide, by decide⟩

/-- Settles O1: the reset state and the constant store written out. -/
theorem resetLeavesBothBlocksUnbuilt : Obligations.ResetLeavesBothBlocksUnbuilt :=
  ⟨⟨rfl, rfl, rfl, rfl, rfl, rfl, rfl, rfl⟩, ⟨rfl, rfl, rfl, rfl, rfl, rfl⟩, ⟨⟨rfl, rfl, rfl, rfl⟩, rfl, rfl⟩,
    ⟨⟨rfl, rfl, rfl, rfl, rfl⟩, rfl, rfl, rfl⟩, ⟨rfl, rfl, rfl, rfl, rfl, rfl⟩, ⟨rfl, rfl, rfl⟩,
    ⟨rfl, rfl, rfl, rfl⟩, rfl, platform_ok⟩

end Sys2Proof.Machine

/-! PROOFS. What a port and a trace hold (20_memory): the content of a line, the frame of a command, the order of the
two blocks and the growth of the traces.

The frame and the growth of the traces follow from what an instruction can do to its own block (`Rtx.Ended`,
`Slp.Ended`), the order from its running the same whatever the other block holds (`exec_slp_setRtx`,
`exec_rtx_setSlp`). -/

namespace Sys2Proof.Machine

/-! ### The content of a line -/

/-- Only what stands before the first line feed decides the content. -/
theorem lineContent_append_lineFeed {c : List Byte} (rest : List Byte) (hc : 0x0A ∉ c) :
    lineContent (c ++ 0x0A :: rest) = if c.getLast? = some 0x0D then c.dropLast else c := by
  have hbefore : (c ++ 0x0A :: rest).takeWhile (· ≠ 0x0A) = c := by
    rw [List.takeWhile_append_of_pos fun b hb => by simpa using ne_of_mem_of_not_mem hb hc]
    simp
  rw [lineContent, hbefore]

theorem lineFeed_not_mem_lineContent (raw : List Byte) : 0x0A ∉ lineContent raw := by
  have hbefore : 0x0A ∉ raw.takeWhile (· ≠ 0x0A) := fun hmem => by simpa using List.mem_takeWhile_imp hmem
  rw [lineContent]
  split
  · exact fun hmem => hbefore (List.mem_of_mem_dropLast hmem)
  · exact hbefore

/-- Settles O41: the first line feed ends the line, and a carriage return before it is the last byte so far. -/
theorem lineContentEndsAtTheLineFeed : Obligations.LineContentEndsAtTheLineFeed := by
  unfold Obligations.LineContentEndsAtTheLineFeed
  refine ⟨fun c rest hc hlast => ?_, fun c rest hc => ?_, lineFeed_not_mem_lineContent⟩
  · rw [lineContent_append_lineFeed rest hc, if_neg hlast]
  · have hreturn : 0x0A ∉ c ++ [(0x0D : Byte)] := by simpa using hc
    simpa using lineContent_append_lineFeed rest hreturn

/-! ### The frame of an instruction -/

/-- An instruction leaves its block's inputs to the outside (10_state R35, 70 R340). -/
theorem Rtx.Ended.inputs_eq {cfg : Config} {r r' : Rtx} (h : Rtx.Ended cfg r r') :
    r'.cmd = r.cmd ∧ r'.rst = r.rst := by
  cases h <;> exact ⟨rfl, rfl⟩

theorem Slp.Ended.inputs_eq {cfg : Config} {t u : Slp} (h : Slp.Ended cfg t u) :
    u.cmd = t.cmd ∧ u.rst = t.rst := by
  cases h with
  | kept => exact ⟨rfl, rfl⟩
  | died => simp
  | connected => exact ⟨rfl, rfl⟩

/-- Settles O49: an instruction writes one block, and of that block not its inputs. -/
theorem instructionsStayInTheirBlock : Obligations.InstructionsStayInTheirBlock := by
  unfold Obligations.InstructionsStayInTheirBlock
  intro s t i h
  cases hi : i.onSlp with
  | false =>
    obtain ⟨r, rfl, he⟩ := exec_rtx hi h
    obtain ⟨hcmd, hrst⟩ := he.inputs_eq
    exact ⟨rfl, rfl, rfl, hcmd, hrst, rfl, rfl, fun _ => rfl, nofun⟩
  | true =>
    obtain ⟨u, rfl, he⟩ := exec_slp hi h
    obtain ⟨hcmd, hrst⟩ := he.inputs_eq
    exact ⟨rfl, rfl, rfl, rfl, rfl, hcmd, hrst, nofun, fun _ => rfl⟩

/-! ### The order of the two blocks -/

/-- An instruction of SLP runs the same whatever RTX holds. Only CONNECT and its wire image read the lifecycle state
before they run. -/
theorem exec_slp_setRtx {i : Instr} (hi : i.onSlp = true) {s t : State} (r : Rtx) (h : exec i s = .next t) :
    exec i { s with rtx := r } = .next { t with rtx := r } := by
  cases i <;> simp only [Instr.onSlp, Bool.false_eq_true] at hi
  case slpConnect =>
    cases hs : s.slp.scState with
    | connecting => simp only [exec, execSlpConnect, hs] at h ⊢; cases h; rfl
    | active fw => simp [exec, execSlpConnect, hs] at h
    | inactive => simp only [exec, execSlpConnect, hs] at h ⊢; cases h; rfl
  case wQueryVersion =>
    cases hs : s.slp.scState with
    | connecting => simp only [exec, execWQueryVersion, hs] at h ⊢; cases h; rfl
    | active fw => simp [exec, execWQueryVersion, hs] at h
    | inactive => simp only [exec, execWQueryVersion, hs] at h ⊢; cases h; rfl
  all_goals cases h; rfl

/-- An instruction of RTX runs the same whatever SLP holds. Only OPEN reads the lifecycle state before it runs. -/
theorem exec_rtx_setSlp {i : Instr} (hi : i.onSlp = false) {s t : State} (u : Slp) (h : exec i s = .next t) :
    exec i { s with slp := u } = .next { t with slp := u } := by
  cases i <;> simp only [Instr.onSlp, Bool.true_eq_false] at hi
  case rtxOpen pin retries =>
    cases hx : s.rtx.txState with
    | unbound => simp only [exec, execRtxOpen, hx] at h ⊢; cases h; rfl
    | opened b => simp [exec, execRtxOpen, hx] at h
    | closed => simp only [exec, execRtxOpen, hx] at h ⊢; cases h; rfl
  all_goals cases h; rfl

/-- Settles O50: each instruction writes its own block and reads nothing of the other. -/
theorem blocksCommute : Obligations.BlocksCommute := by
  unfold Obligations.BlocksCommute
  intro s t1 t2 i j hi hj h1 h2
  obtain ⟨r, rfl, -⟩ := exec_rtx hi h1
  obtain ⟨u, rfl, -⟩ := exec_slp hj h2
  exact ⟨{ s with rtx := r, slp := u }, exec_slp_setRtx hj r h2, exec_rtx_setSlp hi u h1⟩

/-! ### The traces -/

/-- An instruction appends its events in program order (20_memory R75). -/
theorem Rtx.Ended.txTrace_prefix {cfg : Config} {r r' : Rtx} (h : Rtx.Ended cfg r r') : r.txTrace <+: r'.txTrace := by
  cases h with
  | answered => exact List.prefix_rfl
  | bound => exact List.prefix_append ..
  | sent => exact List.prefix_append ..
  | released => exact List.prefix_append ..

/-- GoInactive too only appends: its one Close comes last (43 R209). -/
theorem Slp.Ended.slTrace_prefix {cfg : Config} {t u : Slp} (h : Slp.Ended cfg t u) : t.slTrace <+: u.slTrace := by
  cases h with
  | kept => exact List.prefix_append ..
  | died => simp
  | connected => exact List.prefix_append ..

/-- Settles O52: a step leaves a block's trace as it was, clocks it, or ends an instruction on it, and these
only append. -/
theorem tracesOnlyGrow : Obligations.TracesOnlyGrow := by
  unfold Obligations.TracesOnlyGrow
  intro s t hn h
  constructor
  · rcases step_rtx_cases h hn with heq | ⟨p, -, heq⟩ | ⟨-, c, l, he⟩
    · rw [heq]
    · exact heq ▸ Rtx.tick_txTrace ..
    · exact he.txTrace_prefix
  · rcases step_slp_cases h hn with heq | ⟨c, l, he⟩
    · rw [heq]
    · exact he.slTrace_prefix

end Sys2Proof.Machine

/-! PROOFS. The encodings (30_encoding): what a byte stream, a frame and a table word decode to, and what the images of
the wire and of the radio do when they run by themselves.

The two round trips rest on one lemma for each space: a command's bytes at the front of a stream are read as that
command, the rest left over (`decodeWire_append`), and a frame decodes to exactly its fields (`decodeFrame_eq_ok_iff`).
An image that runs by itself is brought to the operation of its command first (`exec_frameInstr`,
`exec_wQueryVersion_portClosed`, `exec_of_writeCommand`). -/

namespace Sys2Proof.Machine

/-! ### Bytes of the wire -/

section Bytes

variable {cfg : Config} {pin : Nat} (rest : List Byte)

theorem decodeWire_readAnalogByte (hw : cfg.WireOk) (hp : wireAnalogPin cfg pin = true) :
    decodeWire cfg (readAnalogByte pin :: rest) = .ok (.wReadAnalog pin, rest) := by
  obtain ⟨hmin, hmax⟩ : cfg.apinMin ≤ pin ∧ pin ≤ cfg.apinMax := by simpa [wireAnalogPin] using hp
  obtain ⟨ha, -⟩ := hw
  have hb : (readAnalogByte pin).toNat = 0x30 + pin := by simp [readAnalogByte]; omega
  simp only [decodeWire, hb]
  repeat rw [if_neg (by omega)]
  rw [if_pos (by omega), Nat.add_sub_cancel_left]

theorem decodeWire_setHighByte (hw : cfg.WireOk) (hp : wireDigitalPin cfg pin = true) :
    decodeWire cfg (setHighByte pin :: rest) = .ok (.wSetHigh pin, rest) := by
  obtain ⟨hmin, hmax⟩ : cfg.dpinMin ≤ pin ∧ pin ≤ cfg.dpinMax := by simpa [wireDigitalPin] using hp
  obtain ⟨ha, hd⟩ := hw
  simp only [decodeWire, setHighByte_toNat (hmax.trans hd)]
  repeat rw [if_neg (by omega)]
  rw [if_pos (by omega), Nat.add_sub_cancel_left]

theorem decodeWire_setLowByte (hw : cfg.WireOk) (hp : wireDigitalPin cfg pin = true) :
    decodeWire cfg (setLowByte pin :: rest) = .ok (.wSetLow pin, rest) := by
  obtain ⟨hmin, hmax⟩ : cfg.dpinMin ≤ pin ∧ pin ≤ cfg.dpinMax := by simpa [wireDigitalPin] using hp
  obtain ⟨ha, hd⟩ := hw
  simp only [decodeWire, setLowByte_toNat (hmax.trans hd)]
  repeat rw [if_neg (by omega)]
  rw [if_pos (by omega), Nat.add_sub_cancel_left]

theorem decodeWire_readName (hw : cfg.WireOk) : decodeWire cfg (0x3D :: rest) = .ok (.wReadName, rest) := by
  have hanalog : ¬ 0x3D ≤ 0x30 + cfg.apinMax := by have := hw.1; omega
  simp [decodeWire, hanalog]

theorem decodeWire_readDigital (hw : cfg.WireOk) : decodeWire cfg (0x3F :: rest) = .ok (.wReadDigital, rest) := by
  have hanalog : ¬ 0x3F ≤ 0x30 + cfg.apinMax := by have := hw.1; omega
  simp [decodeWire, hanalog]

theorem decodeWire_queryVersion (hw : cfg.WireOk) : decodeWire cfg (0x60 :: rest) = .ok (.wQueryVersion, rest) := by
  obtain ⟨ha, hd⟩ := hw
  have hanalog : ¬ 0x60 ≤ 0x30 + cfg.apinMax := by omega
  have hdigital : ¬ 0x60 ≤ 0x41 + cfg.dpinMax := by omega
  simp [decodeWire, hanalog, hdigital]

theorem decodeWire_storeName {name : NameBytes} (hn : nameFits cfg name = true) :
    decodeWire cfg (0x23 :: name ++ rest) = .ok (.wStoreName name, rest) := by
  have hl : name.length = cfg.nameLen := by simpa [nameFits] using hn
  have htake := takeName_append name rest
  rw [hl] at htake
  simp [decodeWire, htake]

/-- The bytes of a wire command at the front of a stream are read as that command, and the rest is left: the first byte
alone tells the command and its length (30_encoding R109, R115). -/
theorem decodeWire_append (hw : cfg.WireOk) {i : Instr} (hi : i.wf cfg = true) {bytes : List Byte}
    (hb : wireBytes cfg i = some bytes) : decodeWire cfg (bytes ++ rest) = .ok (i, rest) := by
  cases i <;> cases hb
  case wQueryVersion => exact decodeWire_queryVersion rest hw
  case wReadDigital => exact decodeWire_readDigital rest hw
  case wSetHigh pin => exact decodeWire_setHighByte rest hw hi
  case wSetLow pin => exact decodeWire_setLowByte rest hw hi
  case wReadAnalog pin => exact decodeWire_readAnalogByte rest hw hi
  case wSavePowerOn => rfl
  case wReadPowerOn => rfl
  case wReadName => exact decodeWire_readName rest hw
  case wStoreName name => exact decodeWire_storeName rest hi

end Bytes

/-- No wire command is without a byte. -/
theorem wireBytes_ne_nil (cfg : Config) (i : Instr) : wireBytes cfg i ≠ some [] := by
  cases i <;> simp [wireBytes, encode]

/-! ### Streams -/

/-- A stream's length is fuel enough: every command takes its first byte at least (30_encoding R109). -/
theorem decodeStreamFuel_flatten {cfg : Config} (hw : cfg.WireOk) {is : List Instr} {chunks : List (List Byte)}
    (his : ∀ i ∈ is, i.wf cfg = true) (hc : is.map (wireBytes cfg) = chunks.map some) {fuel : Nat}
    (hf : chunks.flatten.length ≤ fuel) : decodeStreamFuel cfg fuel chunks.flatten = .ok is := by
  induction is generalizing chunks fuel with
  | nil =>
    obtain rfl : chunks = [] := by simpa using hc.symm
    simp [decodeStreamFuel]
  | cons i is ih =>
    obtain ⟨hi, his⟩ := List.forall_mem_cons.1 his
    obtain _ | ⟨bytes, chunks⟩ := chunks
    · cases hc
    obtain ⟨hbytes, hrest⟩ : wireBytes cfg i = some bytes ∧ is.map (wireBytes cfg) = chunks.map some := by
      simpa using hc
    have hdec := decodeWire_append chunks.flatten hw hi hbytes
    rw [List.flatten_cons] at hf ⊢
    obtain _ | ⟨b, bytes⟩ := bytes
    · exact absurd hbytes (wireBytes_ne_nil cfg i)
    rw [List.cons_append] at hf hdec ⊢
    obtain _ | fuel := fuel
    · simp at hf
    have hlen : chunks.flatten.length ≤ fuel := by
      simp only [List.length_cons, List.length_append] at hf
      omega
    simp only [decodeStreamFuel, hdec, ih his hrest hlen]

/-- Settles O59, from the command at the front of a stream, along the commands. -/
theorem wireStreamSplitsIntoItsCommands : Obligations.WireStreamSplitsIntoItsCommands := by
  unfold Obligations.WireStreamSplitsIntoItsCommands
  rintro cfg is chunks ⟨-, -, -, hw⟩ his hc
  exact decodeStreamFuel_flatten hw his hc le_rfl

/-! ### Frames -/

/-- The instruction of a frame with an action field (30_encoding R118). -/
def frameInstr (a c : BitSequence) : Action → Instr
  | .on => .txOn a c
  | .off => .txOff a c

theorem decodeFrame_frameOf {cfg : Config} (h : cfg.FrameOk) {a c : BitSequence} (ha : a.length = cfg.addrBits)
    (hc : c.length = cfg.unitBits) (action : Action) :
    decodeFrame cfg (frameOf cfg a c action) = .ok (frameInstr a c action) := by
  obtain ⟨haddr, hcode, haction, hend⟩ := frameOf_fields ha hc (actionField_length h action)
  have hlen := frameOf_length h ha hc action
  obtain ⟨-, -, -, hne, -⟩ := h
  simp only [decodeFrame, haddr, hcode, haction, hend, hlen]
  cases action
  · simp [actionField, frameInstr]
  · simp [actionField, frameInstr, hne.symm]

/-- A bit sequence is its four fields one after the other (30_encoding R92). -/
theorem fields_append (f : BitSequence) (m n k : Nat) :
    f.take m ++ (f.drop m).take n ++ (f.drop (m + n)).take k ++ f.drop (m + n + k) = f := by
  rw [← List.take_add, ← List.take_add, List.take_append_drop]

/-- A bit sequence that decodes is the frame of the fields it decodes to (30_encoding R92, R110). -/
theorem eq_frameOf_of_decodeFrame {cfg : Config} (h : cfg.FrameOk) {f : BitSequence} {i : Instr}
    (hd : decodeFrame cfg f = .ok i) :
    ∃ a c action, a.length = cfg.addrBits ∧ c.length = cfg.unitBits ∧ i = frameInstr a c action ∧
      f = frameOf cfg a c action := by
  obtain ⟨hsum, -⟩ := h
  have hfields := fields_append f cfg.addrBits cfg.unitBits cfg.actionBits
  unfold decodeFrame at hd
  dsimp only at hd
  split at hd
  · cases hd
  · rename_i hlen
    have hlen : f.length = cfg.frameBits := not_not.1 hlen
    have haddr : (f.take cfg.addrBits).length = cfg.addrBits := by simp; omega
    have hcode : ((f.drop cfg.addrBits).take cfg.unitBits).length = cfg.unitBits := by simp; omega
    split at hd
    · cases hd
    · rename_i hend
      rw [not_not.1 hend] at hfields
      split at hd
      · rename_i haction
        cases hd
        exact ⟨_, _, .on, haddr, hcode, rfl, by rw [frameOf, actionField, ← haction, hfields]⟩
      · split at hd
        · rename_i haction
          cases hd
          exact ⟨_, _, .off, haddr, hcode, rfl, by rw [frameOf, actionField, ← haction, hfields]⟩
        · cases hd

theorem frameInstr_inj {a a' c c' : BitSequence} {action action' : Action} :
    frameInstr a c action = frameInstr a' c' action' ↔ a = a' ∧ c = c' ∧ action = action' := by
  cases action <;> cases action' <;> simp [frameInstr]

/-- A bit sequence decodes to an action's frame exactly when it is the frame of the fields (30_encoding R92). -/
theorem decodeFrame_eq_ok_iff {cfg : Config} (h : cfg.FrameOk) (f a c : BitSequence) (action : Action) :
    decodeFrame cfg f = .ok (frameInstr a c action) ↔
      a.length = cfg.addrBits ∧ c.length = cfg.unitBits ∧ f = frameOf cfg a c action := by
  constructor
  · intro hd
    obtain ⟨a', c', action', ha, hc, hi, hf⟩ := eq_frameOf_of_decodeFrame h hd
    obtain ⟨rfl, rfl, rfl⟩ := frameInstr_inj.1 hi
    exact ⟨ha, hc, hf⟩
  · rintro ⟨ha, hc, rfl⟩
    exact decodeFrame_frameOf h ha hc action

/-- Settles O10, for each of the two actions. -/
theorem frameDecodesExactlyItsFields : Obligations.FrameDecodesExactlyItsFields := by
  unfold Obligations.FrameDecodesExactlyItsFields
  exact fun cfg f a c h => ⟨decodeFrame_eq_ok_iff h f a c .on, decodeFrame_eq_ok_iff h f a c .off⟩

/-! ### Every instruction -/

/-- Bytes that are one command and no more decode to it (30_encoding R93). -/
theorem decode_wire_of_decodeWire {cfg : Config} {bytes : List Byte} {i : Instr}
    (h : decodeWire cfg bytes = .ok (i, [])) : decode cfg (.wire bytes) = .ok i := by
  simp [decode, h]

/-- The image of a wire command is its bytes. -/
theorem encode_eq_wire {cfg : Config} {i : Instr} {bytes : List Byte} (h : wireBytes cfg i = some bytes) :
    encode cfg i = .wire bytes := by
  cases i <;> cases h <;> rfl

theorem decode_encode_of_wireBytes {cfg : Config} (hw : cfg.WireOk) {i : Instr} (hi : i.wf cfg = true)
    {bytes : List Byte} (hb : wireBytes cfg i = some bytes) : decode cfg (encode cfg i) = .ok i := by
  have hdec := decodeWire_append [] hw hi hb
  rw [List.append_nil] at hdec
  rw [encode_eq_wire hb]
  exact decode_wire_of_decodeWire hdec

/-- A code of the table is the code of some unit (30_encoding R110). -/
theorem codeInTable_iff (cfg : Config) (code : BitSequence) : codeInTable cfg code = true ↔ code ∈ cfg.unitCode := by
  simp [codeInTable]

/-- The code of a unit has UNIT_BITS bits (30_encoding R110). -/
theorem frameFieldsFit_length {cfg : Config} (h : cfg.FrameOk) {a c : BitSequence}
    (hf : frameFieldsFit cfg a c = true) : a.length = cfg.addrBits ∧ c.length = cfg.unitBits := by
  obtain ⟨-, -, -, -, -, hunit⟩ := h
  obtain ⟨ha, hc⟩ : a.length = cfg.addrBits ∧ c ∈ cfg.unitCode := by
    simpa [frameFieldsFit, codeInTable_iff] using hf
  exact ⟨ha, hunit c (Vector.mem_toList_iff.2 hc)⟩

theorem decode_frame_of_fieldsFit {cfg : Config} (h : cfg.FrameOk) {a c : BitSequence}
    (hf : frameFieldsFit cfg a c = true) (action : Action) :
    decode cfg (.frame (frameOf cfg a c action)) = .ok (frameInstr a c action) := by
  obtain ⟨ha, hc⟩ := frameFieldsFit_length h hf
  exact decodeFrame_frameOf h ha hc action

@[simp] theorem actionOfBit_bitOfAction (action : Action) : actionOfBit (bitOfAction action) = action := by
  cases action <;> rfl

/-- Settles O58, space by space: a command-port word names its command, the operands it has as they are (R119); the bytes
of a wire command are read as it (R93, R102, R103); a frame decodes to its fields (R92); a symbol is its bit (R91); the
two internal rows stand for themselves (log 5). -/
theorem decodeOfEncodeIsTheInstruction : Obligations.DecodeOfEncodeIsTheInstruction := by
  unfold Obligations.DecodeOfEncodeIsTheInstruction
  rintro cfg i ⟨-, hframe, -, hw⟩ hi
  cases i
  case rtxTransmit | rtxTransmitAll => simp [encode, decode, decodePort]
  case slpStoreName name =>
    have hname : name.length = cfg.nameLen := by simpa [Instr.wf, nameFits] using hi
    simp [encode, decode, decodePort, hname]
  case wQueryVersion | wReadDigital | wSetHigh | wSetLow | wReadAnalog | wSavePowerOn | wReadPowerOn | wReadName |
      wStoreName => exact decode_encode_of_wireBytes hw hi rfl
  case txOn => exact decode_frame_of_fieldsFit hframe hi .on
  case txOff => exact decode_frame_of_fieldsFit hframe hi .off
  all_goals rfl

/-! ### Words of the opcode table -/

/-- Settles O60, by evaluation: the decoder on each word, and on each of the 256 byte values. -/
theorem tableWordsDecode : Obligations.TableWordsDecode :=
  ⟨rfl, rfl, rfl, rfl, rfl, rfl, rfl, rfl, rfl, rfl⟩

/-! ### Frame images -/

theorem exec_frameInstr (a c : BitSequence) (action : Action) (s : State) :
    exec (frameInstr a c action) s = .next (s.onRtx (Rtx.sendImage s.cfg a c action)) := by
  cases action <;> rfl

theorem Rtx.sendImage_closed {cfg : Config} {a c : BitSequence} {action : Action} {r : Rtx}
    (h : ∀ b, r.txState ≠ .opened b) : r.sendImage cfg a c action = .raised .closed r := by
  unfold Rtx.sendImage
  split
  · rfl
  · rename_i b hb
    exact absurd hb (h b)
  · rfl

theorem Rtx.sendImage_noUnit {cfg : Config} {a c : BitSequence} {action : Action} {r : Rtx} {b : Binding}
    (hb : r.txState = .opened b) (hc : c ∉ cfg.unitCode) : r.sendImage cfg a c action = .raised .invalidUnit r := by
  simp [Rtx.sendImage, hb, codeInTable_iff, hc]

theorem Rtx.sendImage_unit {cfg : Config} {a c : BitSequence} {action : Action} {r : Rtx} {b : Binding}
    (hb : r.txState = .opened b) (hc : c ∈ cfg.unitCode) :
    r.sendImage cfg a c action = .done .none (r.sendFrame cfg (frameOf cfg a c action)) := by
  simp [Rtx.sendImage, hb, codeInTable_iff, hc]

/-- Settles O18: the three cases of a frame image; a frame has a bit, so that it leaves the line LOW. -/
theorem frameImageSendsOneFrame : Obligations.FrameImageSendsOneFrame := by
  unfold Obligations.FrameImageSendsOneFrame
  intro s a c i action hframe hi
  obtain rfl : i = frameInstr a c action := by
    rcases hi with ⟨rfl, rfl⟩ | ⟨rfl, rfl⟩ <;> rfl
  rw [exec_frameInstr]
  refine ⟨fun hb => ?_, fun b hb hc => ?_, fun b hb hc => ?_⟩
  · simp [State.onRtx, Rtx.sendImage_closed hb, State.rtxAnswer]
  · simp [State.onRtx, Rtx.sendImage_noUnit hb hc, State.rtxAnswer]
  · have hline := TxState.afterBits_of_ne_nil (frameOf_ne_nil hframe a c action) s.rtx.txState
    rw [hb, TxState.setLine_opened] at hline
    simp [State.onRtx, Rtx.sendImage_unit hb hc, Rtx.sendFrame_eq, hb, hline, repetitionEvents, Rtx.respond,
      State.rtxSent]

/-! ### The query image -/

/-- The handshake whose accesses succeed and whose line names the expected firmware of a sufficient version (43 R201). -/
theorem Slp.handshake_ok {cfg : Config} {t : Slp} {l l' : Link} {raw : List Byte} {n : Nat}
    (hok : Link.OkTimes 2 t.link l) (hread : l.nextRead = (.line raw, l'))
    (hparse : parseVersion (lineContent raw) = some (n, cfg.expectedCodename)) (hv : cfg.minVersion ≤ n) :
    t.handshake cfg =
      .done .none
        { t.after [.tx 0x60, .flush, .rx (.line (lineContent raw))] l' with
          scState := .active { verStr := lineContent raw, verNum := n, codename := cfg.expectedCodename } } := by
  obtain ⟨l1, hwrite, l2, hflush, rfl⟩ := hok
  rw [Slp.handshake, Slp.sendCmd_ok hwrite hflush, Run.andThen_done, Slp.recvLine_line (by simpa using hread)]
  simp [Slp.checkFirmware, hparse, Nat.not_lt.2 hv]

/-- CONNECT whose open succeeds (43 R201). -/
theorem Slp.connect_ok {cfg : Config} {t : Slp} {l : Link} (h : t.link.nextIo = (.ok, l)) :
    t.connect cfg =
      Slp.handshake cfg { t.after [.opened, .wait cfg.tResetSettle] l with portOpen := true } := by
  simp [Slp.connect, Slp.serOpen, Slp.access_ok h, Slp.wait, Slp.emit, Slp.after]

theorem exec_wQueryVersion_portOpen {s : State} (hs : s.slp.scState = .connecting) (hp : s.slp.portOpen = true) :
    exec .wQueryVersion s = .next (s.onSlp (Slp.handshake s.cfg)) := by
  simp [exec, execWQueryVersion, hs, State.onSlp, hp]

/-- Where the transport is not open yet the query image is CONNECT (log 6). -/
theorem exec_wQueryVersion_portClosed {s : State} (hp : s.slp.portOpen = false) :
    exec .wQueryVersion s = exec .slpConnect s := by
  cases hs : s.slp.scState <;> simp [exec, execWQueryVersion, execSlpConnect, hs, State.onSlp, hp]

theorem exec_slpConnect_connecting {s : State} (hs : s.slp.scState = .connecting) :
    exec .slpConnect s = .next (s.onSlp (Slp.connect s.cfg)) := by
  simp [exec, execSlpConnect, hs]

/-- Settles O22: with the transport open the image is the handshake alone, else CONNECT. -/
theorem queryImageCompletesTheHandshake : Obligations.QueryImageCompletesTheHandshake := by
  unfold Obligations.QueryImageCompletesTheHandshake
  refine ⟨fun s hp => exec_wQueryVersion_portClosed hp, fun s l l' raw n hs hok hread hparse hv => ?_⟩
  cases hp : s.slp.portOpen with
  | true =>
    rw [hp] at hok
    rw [exec_wQueryVersion_portOpen hs hp, State.onSlp, Slp.handshake_ok hok hread hparse hv]
    simp [Slp.after, Slp.respond, hp]
  | false =>
    rw [hp] at hok
    obtain ⟨l1, hopen, hok⟩ := hok
    rw [exec_wQueryVersion_portClosed hp, exec_slpConnect_connecting hs, State.onSlp, Slp.connect_ok hopen,
      Slp.handshake_ok hok hread hparse hv]
    simp [Slp.after, Slp.respond]

/-! ### Commands that only write, and pin queries -/

/-- A gate at version 0 is RequireActive alone (43 R211). -/
theorem Slp.requireGate_zero (t : Slp) : t.requireGate 0 = t.requireActive.andThen fun _ t1 => .done () t1 := by
  simp [Slp.requireGate, Slp.requireVersion]

/-- A command that only writes: its gate, its bytes, one flush (43 R210, R211). -/
def Slp.writeOnly (v : Nat) (bytes : List Byte) (t : Slp) : Run Slp Result :=
  (t.requireGate v).andThen fun _ t1 => (t1.sendCmd bytes).andThen fun _ t2 => .done .none t2

theorem Slp.setDigital_eq_writeOnly {cfg : Config} {pin : Int} {value : Bit}
    (hp : cfg.dpinMin ≤ pin ∧ pin ≤ cfg.dpinMax) :
    Slp.setDigital cfg pin value = Slp.writeOnly 0 [setDigitalByte pin value] := by
  funext t
  simp only [Slp.setDigital, Slp.writeOnly, Slp.requireGate_zero, Run.andThen_assoc, (digitalPinValid_iff ..).2 hp,
    if_true, Run.andThen_done]

/-- SET_DIGITAL writes the byte of its pin and value (30_encoding R102). -/
theorem exec_slpSetDigital_eq_writeOnly {s : State} {pin : Int} {value : Bit}
    (hp : s.cfg.dpinMin ≤ pin ∧ pin ≤ s.cfg.dpinMax) :
    exec (.slpSetDigital pin value) s =
      .next (s.onSlp (Slp.writeOnly 0 [BitVec.ofNat 8 ((if value then 0x41 else 0x61) + pin.toNat)])) := by
  have hbyte : setDigitalByte pin value = BitVec.ofNat 8 ((if value then 0x41 else 0x61) + pin.toNat) := by
    cases value <;> rfl
  rw [← hbyte, ← Slp.setDigital_eq_writeOnly hp]
  rfl

/-- The commands that only write, and their images, do so at the version they need, whatever state SLP is in
(30_encoding R93; log 6). -/
theorem exec_of_writeCommand {s : State} {i : Instr} {bytes : List Byte} {v : Nat}
    (h : writeCommand s.cfg i = some (bytes, v)) : exec i s = .next (s.onSlp (Slp.writeOnly v bytes)) := by
  cases i <;> simp only [writeCommand, Option.ite_none_right_eq_some, reduceCtorEq] at h
  case slpSetDigital pin value =>
    obtain ⟨hp, ⟨⟩⟩ := h
    exact exec_slpSetDigital_eq_writeOnly hp
  case wSetHigh pin =>
    obtain ⟨hp, ⟨⟩⟩ := h
    exact exec_slpSetDigital_eq_writeOnly (pin := pin) (value := true) (by exact_mod_cast hp)
  case wSetLow pin =>
    obtain ⟨hp, ⟨⟩⟩ := h
    exact exec_slpSetDigital_eq_writeOnly (pin := pin) (value := false) (by exact_mod_cast hp)
  case slpSavePowerOn => cases h; rfl
  case wSavePowerOn => cases h; rfl
  case wStoreName name =>
    cases h
    simp only [exec, execWStoreName, Slp.sendName, Run.andThen_assoc, Slp.writeOnly, State.onSlp]

/-- Settles O37: the gate is passed, the bytes and the flush are recorded. -/
theorem writeCommandsSendTheirBytes : Obligations.WriteCommandsSendTheirBytes := by
  unfold Obligations.WriteCommandsSendTheirBytes
  rintro s fw i bytes v l hi hs hv ⟨l1, hwrite, l2, hflush, rfl⟩
  rw [exec_of_writeCommand hi, State.onSlp, Slp.writeOnly, Slp.requireGate_ok hs hv, Run.andThen_done,
    Slp.sendCmd_ok hwrite hflush]
  rfl

/-- A pin query: its gate, its byte, and the mapping its line decodes to (44 R233, 45 R267). -/
def Slp.pinQuery (cfg : Config) (v : Nat) (b : Byte) (t : Slp) : Run Slp Result :=
  (t.requireGate v).andThen fun _ t1 =>
    (t1.exchange b).andThen fun bs t2 => .done (.pins (decodePinState cfg bs)) t2

theorem Slp.readDigital_eq_pinQuery (cfg : Config) : Slp.readDigital cfg = Slp.pinQuery cfg 0 0x3F := by
  funext t
  simp only [Slp.readDigital, Slp.pinQuery, Slp.requireGate_zero, Run.andThen_assoc, Run.andThen_done]

theorem Slp.readPowerOn_eq_pinQuery (cfg : Config) : Slp.readPowerOn cfg = Slp.pinQuery cfg cfg.vReadPo 0x2D := rfl

/-- A pin query in Active, at its version, whose accesses and read succeed (43 R210). -/
theorem Slp.pinQuery_ok {cfg : Config} {v : Nat} {b : Byte} {t : Slp} {fw : Firmware} {l l' : Link} {raw : List Byte}
    (hs : t.scState = .active fw) (hv : v ≤ fw.verNum) (hok : Link.OkTimes 2 t.link l)
    (hread : l.nextRead = (.line raw, l')) :
    t.pinQuery cfg v b =
      .done (.pins (decodePinState cfg (lineContent raw)))
        (t.after [.tx b, .flush, .rx (.line (lineContent raw))] l') := by
  obtain ⟨l1, hwrite, l2, hflush, rfl⟩ := hok
  rw [Slp.pinQuery, Slp.requireGate_ok hs hv, Run.andThen_done, Slp.exchange_ok hwrite hflush hread, Run.andThen_done]

/-- Settles O35: both images are pin queries. -/
theorem pinQueryImagesAnswerTheLine : Obligations.PinQueryImagesAnswerTheLine := by
  unfold Obligations.PinQueryImagesAnswerTheLine
  intro s fw l l' raw i b v hi hs hv hok hread
  have hexec : exec i s = .next (s.onSlp (Slp.pinQuery s.cfg v b)) := by
    rcases hi with ⟨rfl, rfl, rfl⟩ | ⟨rfl, rfl, rfl⟩
    · rw [← Slp.readDigital_eq_pinQuery]
      rfl
    · rw [← Slp.readPowerOn_eq_pinQuery]
      rfl
  rw [hexec, State.onSlp, Slp.pinQuery_ok hs hv hok hread]
  rfl

/-! ### Pin-state lines -/

/-- A byte that is no state letter assigns nothing (30_encoding R113). -/
theorem PinState.letter_of_unrecognised {cfg : Config} {b : Byte}
    (hb : ∀ pin, cfg.dpinMin ≤ pin → pin ≤ cfg.dpinMax → b.toNat ≠ 0x41 + pin ∧ b.toNat ≠ 0x61 + pin)
    (m : PinState) : m.letter cfg b = m := by
  have hhigh := hb (b.toNat - 0x41)
  have hlow := hb (b.toNat - 0x61)
  simp only [PinState.letter]
  rw [if_neg (by omega), if_neg (by omega)]

/-- Settles O44: the mapping before the byte is the mapping after it. -/
theorem unrecognisedBytesAreIgnored : Obligations.UnrecognisedBytesAreIgnored := by
  unfold Obligations.UnrecognisedBytesAreIgnored
  intro cfg xs ys b hb
  simp only [decodePinState, List.foldl_append, List.foldl_cons, PinState.letter_of_unrecognised hb]

end Sys2Proof.Machine

/-! PROOFS. The radio's bit timing (40_radio_bit_timing): the two symbols, the commands that send them, and the waveform
of a bit sequence.

What is measured on a sequence is measured on its segments (`bitSegments`), which are its waveform (`wave_bitEvents`);
the laws of the durations rest on one fact, that the LOW time of a bit is the HIGH time of the other bit
(`low_eq_high_not`). -/

namespace Sys2Proof.Machine

/-! ### The durations of a bit -/

@[simp] theorem high_false (cfg : Config) : high cfg false = cfg.tHigh0 := rfl

@[simp] theorem high_true (cfg : Config) : high cfg true = cfg.tHigh1 := rfl

section Durations
variable {cfg : Config} (ht : cfg.TimingOk)
include ht

theorem high_pos (b : Bit) : 0 < high cfg b := by
  obtain ⟨hpos, hlt, -, -⟩ := ht
  cases b
  · exact hpos
  · exact hpos.trans hlt

/-- The symbol of a bit is that of the other bit with its two durations exchanged (40 R130). -/
theorem low_eq_high_not (b : Bit) : low cfg b = high cfg (!b) := by
  obtain ⟨-, hlt, hbit, hsum⟩ := ht
  cases b
  · exact hsum.symm
  · change cfg.tBit - cfg.tHigh1 = cfg.tHigh0
    omega

theorem high_le_tBit (b : Bit) : high cfg b ≤ cfg.tBit := by
  obtain ⟨-, hlt, hbit, -⟩ := ht
  cases b
  · exact (hlt.trans hbit).le
  · exact hbit.le

theorem high_add_low (b : Bit) : high cfg b + low cfg b = cfg.tBit := Nat.add_sub_of_le (high_le_tBit ht b)

/-- HIGH lasts longer than LOW exactly in the symbol of 1 (40 R134 e). -/
theorem low_lt_high_iff (b : Bit) : low cfg b < high cfg b ↔ b = true := by
  rw [low_eq_high_not ht]
  obtain ⟨-, hlt, -, -⟩ := ht
  cases b
  · simpa using hlt.le
  · simpa using hlt

end Durations

/-- Settles O2: the laws of both bits, then the LOW times as HIGH times of the other bit. -/
theorem pulseDurations : Obligations.PulseDurations := by
  unfold Obligations.PulseDurations
  intro cfg ht
  have hsum := high_add_low ht
  have hlow := low_eq_high_not ht
  have hlowpos (b : Bit) : 0 < low cfg b := hlow b ▸ high_pos ht (!b)
  obtain ⟨hpos, hlt, hbit, -⟩ := ht
  refine ⟨rfl, rfl, fun b => ⟨rfl, hsum b, hlowpos b⟩, hpos, hlt, hbit, hlow false, hlow true, ?_⟩
  rintro ⟨-, h0, h1, -⟩
  exact ⟨h0, h1, (hlow false).trans h1, (hlow true).trans h0⟩

/-! ### The commands -/

/-- Settles O3: either symbol is `Rtx.sym` of its bit. -/
theorem symSendsOnePulse : Obligations.SymSendsOnePulse := by
  unfold Obligations.SymSendsOnePulse
  intro s i b hi
  have hexec : exec i s = .next (s.onRtx fun r => .done .none (r.sym s.cfg b)) := by
    rcases hi with ⟨rfl, rfl⟩ | ⟨rfl, rfl⟩ <;> rfl
  refine ⟨s.rtx.txState.setLine .low, ?_, fun d hd => ?_, TxState.setLine_of_not_opened .low⟩
  · rw [hexec, State.onRtx, Rtx.sym_eq]
    rfl
  · rw [hd, TxState.setLine_opened]

/-- A bit sequence has four events a bit (40 R133). -/
theorem bitEvents_length (cfg : Config) (seq : BitSequence) : (bitEvents cfg seq).length = 4 * seq.length := by
  induction seq with
  | nil => rfl
  | cons b seq ih =>
    rw [bitEvents_cons, List.length_append, ih, List.length_cons, Nat.mul_succ, Nat.add_comm]
    rfl

/-- Settles O4: the events are those of the bits, the lifecycle state is that after them. -/
theorem transmitBitsSendsItsSymbols : Obligations.TransmitBitsSendsItsSymbols := by
  unfold Obligations.TransmitBitsSendsItsSymbols
  intro s seq
  have hexec : exec (.transmitBits seq) s = .next (s.onRtx fun r => .done .none (r.transmitBits s.cfg seq)) := rfl
  refine ⟨s.rtx.txState.afterBits seq, bitEvents s.cfg seq, ?_, rfl, bitEvents_length s.cfg seq,
    fun d hd hne => ?_, fun h => ?_⟩
  · rw [hexec, State.onRtx, Rtx.transmitBits_eq]
    rfl
  · rw [TxState.afterBits_of_ne_nil hne, hd, TxState.setLine_opened]
  · rcases h with rfl | hclosed
    · exact TxState.afterBits_nil _
    · rcases TxState.afterBits_cases seq s.rtx.txState with hsame | hlow
      · exact hsame
      · rw [hlow, TxState.setLine_of_not_opened .low hclosed]

/-! ### The waveform of a sequence -/

/-- The segments of a bit sequence, one HIGH and one LOW a bit (40 R134 c). -/
def bitSegments (cfg : Config) (seq : BitSequence) : List (Level × Nat) :=
  seq.flatMap fun b => [(.high, high cfg b), (.low, low cfg b)]

@[simp] theorem bitSegments_nil (cfg : Config) : bitSegments cfg [] = [] := rfl

@[simp] theorem bitSegments_cons (cfg : Config) (b : Bit) (seq : BitSequence) :
    bitSegments cfg (b :: seq) = (.high, high cfg b) :: (.low, low cfg b) :: bitSegments cfg seq := rfl

/-- A LOW segment before a sequence stays a segment of its own: a sequence begins HIGH. -/
theorem pushSegment_low_bitSegments (cfg : Config) (d : Nat) (seq : BitSequence) :
    pushSegment .low d (bitSegments cfg seq) = (.low, d) :: bitSegments cfg seq := by
  cases seq <;> rfl

theorem waveFrom_bitEvents (cfg : Config) (c : Option Level) (seq : BitSequence) :
    waveFrom c (bitEvents cfg seq) = bitSegments cfg seq := by
  induction seq generalizing c with
  | nil => exact waveFrom_nil c
  | cons b seq ih => rw [bitEvents_cons, waveFrom_sym, ih, pushSegment_low_bitSegments, bitSegments_cons]

@[simp] theorem wave_bitEvents (cfg : Config) (seq : BitSequence) : wave (bitEvents cfg seq) = bitSegments cfg seq :=
  waveFrom_bitEvents cfg none seq

@[simp] theorem levelTime_cons (l l' : Level) (d : Nat) (w : List (Level × Nat)) :
    levelTime l ((l', d) :: w) = levelTime l w + if l' = l then d else 0 := by
  by_cases h : l' = l <;> simp [levelTime, h, Nat.add_comm]

@[simp] theorem levelCount_cons (l l' : Level) (d : Nat) (w : List (Level × Nat)) :
    levelCount l ((l', d) :: w) = levelCount l w + if l' = l then 1 else 0 := by
  by_cases h : l' = l <;> simp [levelCount, h]

/-- Each level has one segment a bit (40 R134 c). -/
theorem levelCount_bitSegments (l : Level) (cfg : Config) (seq : BitSequence) :
    levelCount l (bitSegments cfg seq) = seq.length := by
  induction seq with
  | nil => rfl
  | cons b seq ih =>
    rw [bitSegments_cons, levelCount_cons, levelCount_cons, ih]
    cases l <;> rfl

/-- Settles O6: the waveform of the events is the segments of the bits. -/
theorem sequenceHasTwoSegmentsPerBit : Obligations.SequenceHasTwoSegmentsPerBit := by
  unfold Obligations.SequenceHasTwoSegmentsPerBit
  intro cfg seq
  rw [wave_bitEvents]
  exact ⟨rfl, levelCount_bitSegments .high cfg seq, levelCount_bitSegments .low cfg seq⟩

/-! ### What is measured on a sequence -/

/-- A sequence is HIGH for the HIGH times of its bits (40 R134 b). -/
theorem levelTime_high_bitSegments (cfg : Config) (seq : BitSequence) :
    levelTime .high (bitSegments cfg seq) = cfg.tHigh0 * seq.count false + cfg.tHigh1 * seq.count true := by
  induction seq with
  | nil => rfl
  | cons b seq ih =>
    rw [bitSegments_cons, levelTime_cons, levelTime_cons, ih]
    cases b <;> simp <;> ring

section Measures
variable {cfg : Config} (ht : cfg.TimingOk)
include ht

theorem totalWait_symEvents (b : Bit) : totalWait (symEvents cfg b) = cfg.tBit := high_add_low ht b

/-- A sequence takes T_BIT a bit (40 R134 a). -/
theorem totalWait_bitEvents (seq : BitSequence) : totalWait (bitEvents cfg seq) = cfg.tBit * seq.length := by
  induction seq with
  | nil => rfl
  | cons b seq ih =>
    rw [bitEvents_cons, totalWait_append, totalWait_symEvents ht, ih, List.length_cons, Nat.mul_succ, Nat.add_comm]

/-- The rising edges of a sequence are T_BIT apart: the edges after the first are those of a sequence that starts T_BIT
later (40 R134 d). -/
theorem risingEdgesFrom_bitSegments (start : Nat) (seq : BitSequence) :
    risingEdgesFrom start (bitSegments cfg seq) = (List.range seq.length).map fun i => start + cfg.tBit * i := by
  induction seq generalizing start with
  | nil => rfl
  | cons b seq ih =>
    have hnext : start + high cfg b + low cfg b = start + cfg.tBit := by rw [Nat.add_assoc, high_add_low ht]
    rw [bitSegments_cons, risingEdgesFrom, risingEdgesFrom, hnext, ih, List.length_cons, List.range_succ_eq_map]
    simp [Nat.mul_succ, Nat.add_assoc, Nat.add_comm cfg.tBit]

/-- A sequence can be read back from its segments (40 R134 e). -/
theorem bitsOfWave_bitSegments (seq : BitSequence) : bitsOfWave (bitSegments cfg seq) = seq := by
  induction seq with
  | nil => rfl
  | cons b seq ih => simp [bitsOfWave, ih, low_lt_high_iff ht]

end Measures

/-- Settles O5, from the events for the duration and from the segments for the rest. -/
theorem sequenceTiming : Obligations.SequenceTiming := by
  unfold Obligations.SequenceTiming
  intro cfg seq start ht
  rw [wave_bitEvents]
  exact ⟨totalWait_bitEvents ht seq, levelTime_high_bitSegments cfg seq, risingEdgesFrom_bitSegments ht start seq⟩

/-- Settles O7, along the segments of the waveform. -/
theorem waveformCarriesTheBits : Obligations.WaveformCarriesTheBits := by
  unfold Obligations.WaveformCarriesTheBits
  intro cfg seq ht
  rw [wave_bitEvents]
  exact bitsOfWave_bitSegments ht seq

end Sys2Proof.Machine

/-! PROOFS. The frame builder (41_radio_frame_builder): what BUILD answers, and how frames differ.

What BUILD answers is what `buildFrame` computes (`exec_build_ok`, `exec_build_error`); the fields of its frame are
those of `frameOf_fields`. A frame determines its fields because it decodes to them (`decodeFrame_frameOf`); two frames
of one address and code differ just where their action fields do (`frameOf_on_ne_off_iff`). -/

namespace Sys2Proof.Machine

/-! ### The command -/

section Build
variable {s : State} {address unit : Int} {action : Action}

theorem exec_build (s : State) (address unit : Int) (action : Action) :
    exec (.build address unit action) s =
      .next (s.onRtx fun r => (r.build s.cfg address unit action).andThen fun f r' => .done (.frame f) r') := rfl

/-- BUILD shows the frame it builds and changes nothing else (41 R155). -/
theorem exec_build_ok {f : BitSequence} (h : buildFrame s.cfg address unit action = .ok f) :
    exec (.build address unit action) s = .next (s.rtxAnswer .ok (.frame f)) := by
  simp [exec_build, State.onRtx, Rtx.build, h, State.rtxAnswer]

/-- BUILD shows the error of its first bad operand and changes nothing else (41 R155). -/
theorem exec_build_error {e : Status} (h : buildFrame s.cfg address unit action = .error e) :
    exec (.build address unit action) s = .next (s.rtxAnswer e .none) := by
  simp [exec_build, State.onRtx, Rtx.build, h, State.rtxAnswer]

end Build

/-! ### The fields -/

@[simp] theorem addrField_length (cfg : Config) (address : Int) : (addrField cfg address).length = cfg.addrBits :=
  bitsMsb_length _ _

/-- The address field of a valid address is read back as that address (41 R150, R151). -/
theorem numberOfBits_addrField {cfg : Config} {address : Int} (ha : 0 ≤ address ∧ address < 2 ^ cfg.addrBits) :
    (numberOfBits (addrField cfg address) : Int) = address := by
  obtain ⟨hnonneg, hlt⟩ := ha
  have hnat : address.toNat < 2 ^ cfg.addrBits := (Int.toNat_lt hnonneg).2 (by exact_mod_cast hlt)
  rw [addrField, numberOfBits_bitsMsb hnat, Int.toNat_of_nonneg hnonneg]

/-- Settles O8: BUILD answers what `buildFrame` computes, a frame of the four fields or the first error. -/
theorem buildAnswersTheFourFields : Obligations.BuildAnswersTheFourFields := by
  unfold Obligations.BuildAnswersTheFourFields
  intro s address unit action
  refine ⟨fun ha hu hok => ?_, fun ha => exec_build_error (buildFrame_badAddress ha),
    fun ha hu => exec_build_error (buildFrame_badUnit ha hu)⟩
  obtain ⟨code, hunit, hcode, hbuild⟩ := buildFrame_ok (action := action) ha hu
  have hlen := buildFrame_ok_length hok hbuild
  obtain ⟨haddr, hcodeField, haction, hend⟩ :=
    frameOf_fields (addrField_length s.cfg address) (unitField_length hok hunit) (actionField_length hok action)
  refine ⟨_, code, exec_build_ok hbuild, hcode, hlen, ?_, hcodeField, haction, hend, ?_⟩
  · rw [haddr, numberOfBits_addrField ha]
  · rintro ⟨⟨haddrBits, hunitBits, hactionBits, -, hframeBits⟩, hon, hoff, hmark⟩
    have hstart : s.cfg.addrBits + s.cfg.unitBits = 20 := by rw [haddrBits, hunitBits]
    rw [hstart, hactionBits] at haction hend
    refine ⟨hlen.trans hframeBits, haction.trans ?_, hend.trans hmark⟩
    cases action
    · exact hon
    · exact hoff

/-! ### Telling frames apart -/

/-- Two frames of one address and code differ just where their action fields do (41 R156 f). -/
theorem frameOf_on_ne_off_iff {cfg : Config} (hx : cfg.actionOn.length = cfg.actionOff.length) (a c : BitSequence)
    (i : Nat) :
    (frameOf cfg a c .on)[i]? ≠ (frameOf cfg a c .off)[i]? ↔
      a.length + c.length ≤ i ∧
        cfg.actionOn[i - (a.length + c.length)]? ≠ cfg.actionOff[i - (a.length + c.length)]? := by
  have hon : frameOf cfg a c .on = (a ++ c) ++ (cfg.actionOn ++ cfg.endMark) := by simp [frameOf, actionField]
  have hoff : frameOf cfg a c .off = (a ++ c) ++ (cfg.actionOff ++ cfg.endMark) := by simp [frameOf, actionField]
  rw [hon, hoff, ← List.length_append]
  rcases Nat.lt_or_ge i (a ++ c).length with hbefore | hafter
  · rw [List.getElem?_append_left hbefore, List.getElem?_append_left hbefore]
    exact iff_of_false (fun h => h rfl) (fun h => absurd h.1 (Nat.not_le.2 hbefore))
  rw [List.getElem?_append_right hafter, List.getElem?_append_right hafter, and_iff_right hafter]
  generalize i - (a ++ c).length = j
  rcases Nat.lt_or_ge j cfg.actionOn.length with hin | hpast
  · rw [List.getElem?_append_left hin, List.getElem?_append_left (hx ▸ hin)]
  · have honEnd : cfg.actionOn[j]? = none := List.getElem?_eq_none hpast
    have hoffEnd : cfg.actionOff[j]? = none := List.getElem?_eq_none (hx ▸ hpast)
    rw [List.getElem?_append_right hpast, List.getElem?_append_right (hx ▸ hpast), hx, honEnd, hoffEnd]
    exact iff_of_false (fun h => h rfl) (fun h => h rfl)

/-- The documented patterns 0011 and 1100 differ in each of their four positions (30_encoding R104). -/
theorem documentedActions_ne_iff (j : Nat) :
    ([false, false, true, true] : BitSequence)[j]? ≠ ([true, true, false, false] : BitSequence)[j]? ↔ j < 4 := by
  rcases Nat.lt_or_ge j 4 with hj | hj
  · refine iff_of_true ?_ hj
    interval_cases j <;> decide
  · rw [List.getElem?_eq_none hj, List.getElem?_eq_none hj]
    exact iff_of_false (fun h => h rfl) (Nat.not_lt.2 hj)

/-- A frame of fields of their lengths determines them: it decodes to them (41 R156 g). -/
theorem frameOf_inj {cfg : Config} (hok : cfg.FrameOk) {a a' c c' : BitSequence} {action action' : Action}
    (ha : a.length = cfg.addrBits) (ha' : a'.length = cfg.addrBits) (hc : c.length = cfg.unitBits)
    (hc' : c'.length = cfg.unitBits) (h : frameOf cfg a c action = frameOf cfg a' c' action') :
    a = a' ∧ c = c' ∧ action = action' := by
  have hdecode : (.ok (frameInstr a c action) : Except DecodeError Instr) = .ok (frameInstr a' c' action') := by
    rw [← decodeFrame_frameOf hok ha hc, h, decodeFrame_frameOf hok ha' hc']
  exact frameInstr_inj.1 (Except.ok.inj hdecode)

/-- Settles O9: the action fields for the positions, the decoder for the fields. -/
theorem framesAreTellable : Obligations.FramesAreTellable := by
  unfold Obligations.FramesAreTellable
  refine ⟨fun cfg a c i hdoc ha hc => ?_, fun _ _ _ _ _ _ _ hok ha ha' hc hc' => frameOf_inj hok ha ha' hc hc'⟩
  obtain ⟨-, hon, hoff, -⟩ := hdoc
  rw [frameOf_on_ne_off_iff (by rw [hon, hoff]; rfl) a c i, ha, hc, hon, hoff, documentedActions_ne_iff]
  omega

end Sys2Proof.Machine

/-! PROOFS. The transmitter (42_radio_transmitter): what OPEN, TRANSMIT, TRANSMIT_ALL and CLOSE do to the block, and the
waveform of the repetitions a transmission appends.

TRANSMIT and TRANSMIT_ALL answer an error and no more (`State.onRtx_raised`) or send a number of frames
(`State.onRtx_afterFrames`). In the waveform a repetition is the segments of its frame, the last LOW one prolonged by the
idle (`frameSegments`); a repetition begins HIGH, so that the segments of several stand one after the other
(`wave_repetitions`), and what is measured on them adds up (`risingEdgesFrom_append`). -/

namespace Sys2Proof.Machine

/-! ### How a command of RTX ends -/

section Ends
variable {s : State} {run : Rtx → Run Rtx Result}

/-- A command that ends early in the block it found shows its status and changes nothing else (60_exceptions R316). -/
theorem State.onRtx_raised {e : Status} (h : run s.rtx = .raised e s.rtx) : s.onRtx run = s.rtxAnswer e .none := by
  rw [State.onRtx, h]
  rfl

/-- A command that sends at least one frame leaves the line LOW (42 R176, R180). -/
theorem State.onRtx_afterFrames {b : Binding} {f : BitSequence} {n : Nat} (hb : s.rtx.txState = .opened b) (hf : f ≠ [])
    (hn : 1 ≤ n) (h : run s.rtx = .done .none (Rtx.afterFrames s.cfg n f s.rtx)) :
    s.onRtx run = s.rtxSent (repetitions s.cfg n f) b .ok .none := by
  have hline := TxState.afterBits_frames hf hn s.rtx.txState
  rw [hb, TxState.setLine_opened] at hline
  rw [State.onRtx, h, Rtx.afterFrames, hb, hline]
  rfl

end Ends

/-! ### OPEN and CLOSE -/

section Open
variable {s : State} {pin retries : Int}

theorem exec_rtxOpen_unbound (h : s.rtx.txState = .unbound) :
    exec (.rtxOpen pin retries) s = .next (s.onRtx (Rtx.openPin s.cfg pin retries)) := by
  simp only [exec, execRtxOpen, h]

theorem exec_rtxOpen_opened {b : Binding} (h : s.rtx.txState = .opened b) :
    exec (.rtxOpen pin retries) s = .refused .openWhileOpen := by
  simp only [exec, execRtxOpen, h]

theorem exec_rtxOpen_closed (h : s.rtx.txState = .closed) :
    exec (.rtxOpen pin retries) s = .next (s.rtxAnswer .closed .none) := by
  simp only [exec, execRtxOpen, h]
  rfl

end Open

section OpenPin
variable {cfg : Config} {pin retries : Int} {r : Rtx}

theorem Rtx.openPin_badPin (hp : pin ∉ cfg.validPins) : r.openPin cfg pin retries = .raised .invalidPin r := if_pos hp

theorem Rtx.openPin_badRetries (hp : pin ∈ cfg.validPins) (hr : retries < 1) :
    r.openPin cfg pin retries = .raised .invalidRetryCount r := by
  rw [Rtx.openPin, if_neg (not_not_intro hp), if_pos hr]
  rfl

theorem Rtx.openPin_ok (hp : pin ∈ cfg.validPins) (hr : 1 ≤ retries) :
    r.openPin cfg pin retries =
      .done .none
        { r with
          txState := .opened { pin := pin, retries := retries.toNat, line := .low }
          txTrace := r.txTrace ++ [.bind pin, .drive .low] } := by
  rw [Rtx.openPin, if_neg (not_not_intro hp), if_neg (Int.not_lt.2 hr)]
  simp [Rtx.pinBind, Rtx.pinDrive, Rtx.emit]

end OpenPin

/-- Settles O11: OPEN's run with a valid pin and count, responded to. -/
theorem openBindsThePin : Obligations.OpenBindsThePin := by
  unfold Obligations.OpenBindsThePin
  intro s pin retries hs hp hr
  rw [exec_rtxOpen_unbound hs, State.onRtx, Rtx.openPin_ok hp hr]
  rfl

/-- Settles O12, by the lifecycle states and then by OPEN's two checks. -/
theorem openRejects : Obligations.OpenRejects := by
  unfold Obligations.OpenRejects
  intro s pin retries
  refine ⟨fun hs hp => ?_, fun hs hp hr => ?_, exec_rtxOpen_closed, fun b => exec_rtxOpen_opened⟩
  · rw [exec_rtxOpen_unbound hs, State.onRtx_raised (Rtx.openPin_badPin hp)]
  · rw [exec_rtxOpen_unbound hs, State.onRtx_raised (Rtx.openPin_badRetries hp hr)]

theorem exec_rtxClose (s : State) : exec .rtxClose s = .next (s.onRtx Rtx.closePin) := rfl

theorem Rtx.closePin_opened {r : Rtx} {b : Binding} (h : r.txState = .opened b) :
    r.closePin = .done .none { r.pinRelease b.pin with txState := .closed } := by
  simp only [Rtx.closePin, h]

theorem Rtx.closePin_of_not_opened {r : Rtx} (h : ∀ b, r.txState ≠ .opened b) : r.closePin = .done .none r := by
  cases hx : r.txState with
  | unbound => simp only [Rtx.closePin, hx]
  | opened b => exact absurd hx (h b)
  | closed => simp only [Rtx.closePin, hx]

/-- Settles O17: CLOSE's run on an open block and on any other. -/
theorem closeReleasesThePin : Obligations.CloseReleasesThePin := by
  unfold Obligations.CloseReleasesThePin
  intro s
  refine ⟨fun b hb => ?_, fun hb => ?_⟩
  · rw [exec_rtxClose, State.onRtx, Rtx.closePin_opened hb]
    rfl
  · rw [exec_rtxClose, State.onRtx, Rtx.closePin_of_not_opened hb]
    rfl

/-! ### TRANSMIT and TRANSMIT_ALL -/

section Transmit
variable {s : State} {address unit : Int} {action : Action}

/-- TRANSMIT that ends early shows its status and changes nothing else (42 R176). -/
theorem exec_rtxTransmit_raised {e : Status} (h : s.rtx.transmit s.cfg address unit action = .raised e s.rtx) :
    exec (.rtxTransmit address unit action) s = .next (s.rtxAnswer e .none) :=
  congrArg Host.Outcome.next (State.onRtx_raised (by rw [h, Run.andThen_raised]))

/-- TRANSMIT of a frame sends it `tx_retries` times (42 R176). -/
theorem exec_rtxTransmit_ok {b : Binding} {f : BitSequence} (hb : s.rtx.txState = .opened b) (hn : 1 ≤ b.retries)
    (hf : f ≠ []) (h : buildFrame s.cfg address unit action = .ok f) :
    exec (.rtxTransmit address unit action) s = .next (s.rtxSent (repetitions s.cfg b.retries f) b .ok .none) :=
  congrArg Host.Outcome.next
    (State.onRtx_afterFrames hb hf hn (by rw [Rtx.transmit_ok h hb, Run.andThen_done, Rtx.afterFrames]))

/-- TRANSMIT_ALL that ends early shows its status and changes nothing else (42 R180). -/
theorem exec_rtxTransmitAll_raised {e : Status} (h : s.rtx.transmitAll s.cfg action = .raised e s.rtx) :
    exec (.rtxTransmitAll action) s = .next (s.rtxAnswer e .none) :=
  congrArg Host.Outcome.next (State.onRtx_raised (by rw [h, Run.andThen_raised]))

/-- TRANSMIT_ALL of a frame sends it `tx_retries` squared times (42 R180). -/
theorem exec_rtxTransmitAll_ok {b : Binding} {f : BitSequence} (hb : s.rtx.txState = .opened b) (hn : 1 ≤ b.retries)
    (hf : f ≠ []) (h : buildFrame s.cfg s.cfg.allAddress s.cfg.allUnit action = .ok f) :
    exec (.rtxTransmitAll action) s =
      .next (s.rtxSent (repetitions s.cfg (b.retries * b.retries) f) b .ok .none) :=
  congrArg Host.Outcome.next
    (State.onRtx_afterFrames hb hf (Nat.mul_pos hn hn)
      (by rw [Rtx.transmitAll_ok h hb, Run.andThen_done, Rtx.afterFrames]))

end Transmit

/-- Settles O13: a block that is not Open, then BUILD's two errors, then BUILD's frame. -/
theorem transmitSendsRetriesFrames : Obligations.TransmitSendsRetriesFrames := by
  unfold Obligations.TransmitSendsRetriesFrames
  intro s address unit action hframe
  refine ⟨fun hb => exec_rtxTransmit_raised (Rtx.transmit_closed hb), fun b hb hn => ⟨fun ha => ?_, fun ha hu => ?_,
    fun ha hu => ?_⟩⟩
  · exact exec_rtxTransmit_raised (Rtx.transmit_error (buildFrame_badAddress ha) hb hn)
  · exact exec_rtxTransmit_raised (Rtx.transmit_error (buildFrame_badUnit ha hu) hb hn)
  · obtain ⟨code, -, hcode, hbuild⟩ := buildFrame_ok (action := action) ha hu
    exact ⟨addrField s.cfg address, code, addrField_length s.cfg address, numberOfBits_addrField ha, hcode,
      exec_rtxTransmit_ok hb hn (frameOf_ne_nil hframe _ code action) hbuild⟩

/-- Settles O14: the ALL pair passes BUILD's checks, so that only the lifecycle state can stop TRANSMIT_ALL. -/
theorem transmitAllSendsRetriesSquaredFrames : Obligations.TransmitAllSendsRetriesSquaredFrames := by
  unfold Obligations.TransmitAllSendsRetriesSquaredFrames
  intro s action hok
  obtain ⟨-, hframe, ⟨⟨ha0, ha, hu1, hu⟩, -⟩, -⟩ := hok
  refine ⟨fun hb => exec_rtxTransmitAll_raised (Rtx.transmitAll_closed hb), fun b hb hn => ?_⟩
  obtain ⟨code, -, hcode, hbuild⟩ := buildFrame_ok (action := action) ⟨ha0, ha⟩ ⟨hu1, hu⟩
  exact ⟨addrField s.cfg s.cfg.allAddress, code, addrField_length s.cfg _, numberOfBits_addrField ⟨ha0, ha⟩, hcode,
    exec_rtxTransmitAll_ok hb hn (frameOf_ne_nil hframe _ code action) hbuild⟩

/-! ### The waveform of the repetitions -/

/-- The segments of one repetition of the frame `g ++ [e]`: the LOW time of its last bit is merged with the idle
(42 R177 c). -/
def frameSegments (cfg : Config) (g : BitSequence) (e : Bit) : List (Level × Nat) :=
  bitSegments cfg g ++ [(.high, high cfg e), (.low, low cfg e + cfg.tSettle)]

/-- Before other events only the last LOW segment of a bit sequence can merge with what follows. -/
theorem waveFrom_bitEvents_concat (cfg : Config) (c : Option Level) (g : BitSequence) (e : Bit) (es : List RtxEvent) :
    waveFrom c (bitEvents cfg (g ++ [e]) ++ es) =
      bitSegments cfg g ++ (.high, high cfg e) :: pushSegment .low (low cfg e) (waveFrom (some .low) es) := by
  induction g generalizing c with
  | nil => exact waveFrom_sym cfg c e es
  | cons b g ih =>
    rw [List.cons_append, bitEvents_cons, List.append_assoc, waveFrom_sym, ih]
    cases g <;> rfl

/-- A LOW segment before repetitions stays a segment of its own: a repetition begins HIGH. -/
theorem pushSegment_low_frameSegments (cfg : Config) (d n : Nat) (g : BitSequence) (e : Bit) :
    pushSegment .low d (List.replicate n (frameSegments cfg g e)).flatten =
      (.low, d) :: (List.replicate n (frameSegments cfg g e)).flatten := by
  cases n with
  | zero => rfl
  | succ n => cases g <;> rfl

theorem waveFrom_repetitions (cfg : Config) (c : Option Level) (n : Nat) (g : BitSequence) (e : Bit) :
    waveFrom c (repetitions cfg n (g ++ [e])) = (List.replicate n (frameSegments cfg g e)).flatten := by
  induction n generalizing c with
  | zero => exact waveFrom_nil c
  | succ n ih =>
    rw [repetitions_succ, repetitionEvents, List.append_assoc, waveFrom_bitEvents_concat, List.singleton_append,
      waveFrom_wait, ih, pushSegment_push, pushSegment_low_frameSegments, List.replicate_succ, List.flatten_cons,
      frameSegments]
    simp

theorem wave_repetitions (cfg : Config) (n : Nat) (g : BitSequence) (e : Bit) :
    wave (repetitions cfg n (g ++ [e])) = (List.replicate n (frameSegments cfg g e)).flatten :=
  waveFrom_repetitions cfg none n g e

/-- Settles O16: the last bit of a frame is the end bit, and a 1 is HIGH for longer than a 0. -/
theorem frameEndsInOneLongLow : Obligations.FrameEndsInOneLongLow := by
  unfold Obligations.FrameEndsInOneLongLow
  intro cfg a c action n ht hend
  have hlast : frameOf cfg a c action = (a ++ c ++ actionField cfg action) ++ [false] := by rw [frameOf, hend]
  refine ⟨?_, fun b => ?_⟩
  · rw [hlast, wave_repetitions, List.dropLast_concat]
    rfl
  · obtain ⟨-, hlt, -, -⟩ := ht
    cases b
    · exact le_rfl
    · exact Nat.sub_le_sub_left hlt.le cfg.tBit

/-! ### What is measured on the repetitions -/

/-- The time a waveform takes. -/
def waveTime (w : List (Level × Nat)) : Nat := (w.map Prod.snd).sum

@[simp] theorem waveTime_cons (l : Level) (d : Nat) (w : List (Level × Nat)) :
    waveTime ((l, d) :: w) = d + waveTime w := rfl

theorem waveTime_append (v w : List (Level × Nat)) : waveTime (v ++ w) = waveTime v + waveTime w := by
  simp [waveTime]

theorem waveTime_flatten_replicate (n : Nat) (w : List (Level × Nat)) :
    waveTime (List.replicate n w).flatten = n * waveTime w := by
  simp [waveTime, List.map_flatten, List.sum_flatten]

/-- The rising edges of two waveforms in a row. -/
theorem risingEdgesFrom_append (start : Nat) (v w : List (Level × Nat)) :
    risingEdgesFrom start (v ++ w) = risingEdgesFrom start v ++ risingEdgesFrom (start + waveTime v) w := by
  induction v generalizing start with
  | nil => rfl
  | cons seg v ih =>
    obtain ⟨l, d⟩ := seg
    cases l <;> simp [risingEdgesFrom, ih, Nat.add_assoc]

theorem bitSegments_concat (cfg : Config) (g : BitSequence) (e : Bit) :
    bitSegments cfg (g ++ [e]) = bitSegments cfg g ++ [(.high, high cfg e), (.low, low cfg e)] := List.flatMap_append

section Repetitions
variable {cfg : Config} (ht : cfg.TimingOk)
include ht

theorem waveTime_bitSegments (seq : BitSequence) : waveTime (bitSegments cfg seq) = seq.length * cfg.tBit := by
  induction seq with
  | nil => exact (Nat.zero_mul _).symm
  | cons b seq ih =>
    rw [bitSegments_cons, waveTime_cons, waveTime_cons, ih, ← Nat.add_assoc, high_add_low ht, List.length_cons,
      Nat.succ_mul, Nat.add_comm]

theorem waveTime_frameSegments (g : BitSequence) (e : Bit) :
    waveTime (frameSegments cfg g e) = (g ++ [e]).length * cfg.tBit + cfg.tSettle := by
  rw [← waveTime_bitSegments ht, bitSegments_concat, frameSegments, waveTime_append, waveTime_append]
  simp [Nat.add_assoc, Nat.add_comm cfg.tSettle]

/-- The idle after a frame moves none of its rising edges. -/
theorem risingEdgesFrom_frameSegments (start : Nat) (g : BitSequence) (e : Bit) :
    risingEdgesFrom start (frameSegments cfg g e) =
      (List.range (g ++ [e]).length).map fun i => start + i * cfg.tBit := by
  have hsame : risingEdgesFrom start (frameSegments cfg g e) = risingEdgesFrom start (bitSegments cfg (g ++ [e])) := by
    rw [bitSegments_concat, frameSegments, risingEdgesFrom_append, risingEdgesFrom_append]
    rfl
  simp only [hsame, risingEdgesFrom_bitSegments ht, Nat.mul_comm]

theorem totalWait_repetitions (n : Nat) (f : BitSequence) :
    totalWait (repetitions cfg n f) = n * (f.length * cfg.tBit + cfg.tSettle) := by
  induction n with
  | zero => simp [repetitions, totalWait]
  | succ n ih =>
    rw [repetitions_succ, totalWait_append, ih, repetitionEvents, totalWait_append, totalWait_bitEvents ht,
      Nat.succ_mul, Nat.mul_comm cfg.tBit, Nat.add_comm]
    rfl

/-- The rising edges of repetitions: those of one frame, moved by a frame and an idle from each to the next
(42 R177 d). -/
theorem risingEdgesFrom_replicate_frameSegments (n : Nat) (g : BitSequence) (e : Bit) :
    risingEdgesFrom 0 (List.replicate n (frameSegments cfg g e)).flatten =
      (List.range n).flatMap fun k => (List.range (g ++ [e]).length).map fun i =>
        k * ((g ++ [e]).length * cfg.tBit + cfg.tSettle) + i * cfg.tBit := by
  induction n with
  | zero => rfl
  | succ n ih =>
    rw [List.replicate_succ', List.flatten_append, risingEdgesFrom_append, ih, waveTime_flatten_replicate,
      waveTime_frameSegments ht, List.flatten_singleton, risingEdgesFrom_frameSegments ht, List.range_succ,
      List.flatMap_append, List.flatMap_singleton, Nat.zero_add]

end Repetitions

/-- Idles of a line that was never driven show nothing: a frame without a bit has no waveform (10_state R24). -/
theorem wave_repetitions_nil (cfg : Config) (n : Nat) : wave (repetitions cfg n []) = [] := by
  induction n with
  | zero => rfl
  | succ n ih =>
    rw [repetitions_succ]
    exact ih

/-- Settles O15: the duration from the events, the rising edges from the segments. -/
theorem repetitionTiming : Obligations.RepetitionTiming := by
  unfold Obligations.RepetitionTiming
  intro cfg f n ht hlen
  have htotal := totalWait_repetitions ht n f
  rw [← hlen]
  refine ⟨htotal, ?_, ?_⟩
  · rintro ⟨hbit, -, -, hsettle⟩ ⟨⟨-, -, -, -, hframe⟩, -⟩
    rw [htotal, hlen, hframe, hbit, hsettle]
  · rcases List.eq_nil_or_concat' f with rfl | ⟨g, e, rfl⟩
    · simp [wave_repetitions_nil, risingEdgesFrom]
    · rw [wave_repetitions, risingEdgesFrom_replicate_frameSegments ht]

end Sys2Proof.Machine

/-! PROOFS. The serial lifecycle (43_serial_lifecycle): the line CONNECT accepts, how CONNECT and the commands after it
fail, and the commands that only read or end the lifecycle.

CONNECT and every command that reads a line make one exchange of a byte and a line (`Slp.handshake_eq_exchange`,
`exec_of_lineCommand`), so that the ways an exchange fails are said once (`Link.ExchangeFails`). Each failure goes
through GoInactive (`State.onSlp_goInactive`). -/

namespace Sys2Proof.Machine

/-! ### The version line -/

theorem isDigit_iff (b : Byte) : isDigit b = true ↔ 0x30 ≤ b.toNat ∧ b.toNat ≤ 0x39 := by simp [isDigit]

/-- A digit run is read as a decimal numeral, the first digit the most significant (30_encoding R106). -/
theorem decimalValue_eq_ofDigits (digits : List Byte) :
    decimalValue digits = Nat.ofDigits 10 (digits.reverse.map fun d => d.toNat - 0x30) := by
  simp [decimalValue, Nat.ofDigits_eq_foldr, List.foldr_reverse, List.foldl_map, Nat.add_comm]

/-- The underscore is no digit, so that the digit run of a version line ends at it (43 R204). -/
theorem parseVersion_versionLine {digits : List Byte} (hne : digits ≠ []) (hd : ∀ d ∈ digits, isDigit d = true)
    (cn : List Byte) : parseVersion (0x56 :: (digits ++ 0x5F :: cn)) = some (decimalValue digits, cn) := by
  have hunderscore : ¬ isDigit 0x5F = true := by decide
  have htake : (digits ++ 0x5F :: cn).takeWhile isDigit = digits := by
    rw [List.takeWhile_append_of_pos hd, List.takeWhile_cons_of_neg hunderscore, List.append_nil]
  have hdrop : (digits ++ 0x5F :: cn).dropWhile isDigit = 0x5F :: cn := by
    rw [List.dropWhile_append_of_pos hd, List.dropWhile_cons_of_neg hunderscore]
  simp only [parseVersion, htake, hdrop, hne, ne_eq, not_true_eq_false, if_false, if_true]

/-- A line ParseVersion accepts is a version line (43 R204). -/
theorem eq_versionLine_of_parseVersion {bs cn : List Byte} {n : Nat} (h : parseVersion bs = some (n, cn)) :
    ∃ digits, digits ≠ [] ∧ (∀ d ∈ digits, isDigit d = true) ∧ bs = 0x56 :: (digits ++ 0x5F :: cn) ∧
      n = decimalValue digits := by
  cases bs with
  | nil => cases h
  | cons b rest =>
    have hrest := List.takeWhile_append_dropWhile (p := isDigit) (l := rest)
    simp only [parseVersion, ne_eq, ite_not, Option.ite_none_right_eq_some, Option.ite_none_left_eq_some] at h
    obtain ⟨rfl, hne, h⟩ := h
    split at h
    · cases h
    · rename_i c cn' hdrop
      simp only [Option.ite_none_right_eq_some, Option.some.injEq, Prod.mk.injEq] at h
      obtain ⟨rfl, rfl, rfl⟩ := h
      rw [hdrop] at hrest
      exact ⟨_, hne, fun d hd => List.mem_takeWhile_imp hd, by rw [hrest], rfl⟩

/-- Settles O42: a version line is accepted, and nothing else is. -/
theorem versionLineGrammar : Obligations.VersionLineGrammar := by
  unfold Obligations.VersionLineGrammar
  simp only [← isDigit_iff, ← decimalValue_eq_ofDigits]
  refine fun bs cn n => ⟨eq_versionLine_of_parseVersion, ?_⟩
  rintro ⟨digits, hne, hd, rfl, rfl⟩
  exact parseVersion_versionLine hne hd cn

/-! ### How a command of SLP ends -/

section Ends
variable {s : State} {run : Slp → Run Slp Result}

/-- A command that answers in the block it found changes nothing else (10_state R35). -/
theorem State.onSlp_done {res : Result} (h : run s.slp = .done res s.slp) : s.onSlp run = s.slpAnswer .ok res := by
  rw [State.onSlp, h]
  rfl

/-- A command that ends through GoInactive after its events; the transport is held by then or not (43 R209). -/
theorem State.onSlp_goInactive {e : Status} {es : List SlpEvent} {l : Link} {held : Bool}
    (h : run s.slp = .raised e (Slp.after es l { s.slp with portOpen := held }).goInactive) :
    s.onSlp run = s.slpDied es held l e := by
  rw [State.onSlp, h, Slp.finish_raised, Slp.goInactive_eq]
  rfl

end Ends

/-! ### Failed exchanges -/

/-- How an exchange of the byte `b` and one line fails on the answers `l`: the events up to the failure, the answers
left and the status (43 R210, 60_exceptions R303). -/
inductive Link.ExchangeFails (b : Byte) (l : Link) : List SlpEvent → Link → Status → Prop where
  | write {l1 : Link} (h1 : l.nextIo = (.fail, l1)) : ExchangeFails b l [] l1 .ioFailure
  | flush {l1 l2 : Link} (h1 : l.nextIo = (.ok, l1)) (h2 : l1.nextIo = (.fail, l2)) :
    ExchangeFails b l [.tx b] l2 .ioFailure
  | timeout {l1 l2 l3 : Link} (h1 : l.nextIo = (.ok, l1)) (h2 : l1.nextIo = (.ok, l2))
    (h3 : l2.nextRead = (.timeout, l3)) : ExchangeFails b l [.tx b, .flush, .rx .timeout] l3 .ioTimeout
  | read {l1 l2 l3 : Link} (h1 : l.nextIo = (.ok, l1)) (h2 : l1.nextIo = (.ok, l2))
    (h3 : l2.nextRead = (.fail, l3)) : ExchangeFails b l [.tx b, .flush, .rx .fail] l3 .ioFailure

theorem Slp.exchange_fails {b : Byte} {t : Slp} {es : List SlpEvent} {l : Link} {e : Status}
    (h : t.link.ExchangeFails b es l e) : t.exchange b = .raised e (t.after es l).goInactive := by
  rw [Slp.exchange]
  cases h with
  | write h1 => rw [Slp.sendCmd_writeFail h1, Run.andThen_raised]
  | flush h1 h2 => rw [Slp.sendCmd_flushFail h1 h2, Run.andThen_raised]; rfl
  | timeout h1 h2 h3 => rw [Slp.sendCmd_ok h1 h2, Run.andThen_done, Slp.recvLine_timeout h3, Slp.after_after]; rfl
  | read h1 h2 h3 => rw [Slp.sendCmd_ok h1 h2, Run.andThen_done, Slp.recvLine_fail h3, Slp.after_after]; rfl

/-! ### CONNECT -/

/-- The handshake is the exchange of the version query, then the check of its line (43 R201). -/
theorem Slp.handshake_eq_exchange (cfg : Config) (t : Slp) :
    t.handshake cfg = (t.exchange 0x60).andThen fun bs t1 => t1.checkFirmware cfg bs := by
  rw [Slp.exchange, Run.andThen_assoc]
  rfl

theorem Slp.checkFirmware_invalid {cfg : Config} {bs : List Byte} {t : Slp}
    (h : parseVersion bs = none ∨ ∃ n cn, parseVersion bs = some (n, cn) ∧ cn ≠ cfg.expectedCodename) :
    t.checkFirmware cfg bs = .raised .invalidFirmware t.goInactive := by
  rcases h with hparse | ⟨n, cn, hparse, hcn⟩
  · simp [Slp.checkFirmware, hparse]
  · simp [Slp.checkFirmware, hparse, hcn]

theorem Slp.checkFirmware_old {cfg : Config} {bs : List Byte} {t : Slp} {n : Nat}
    (hparse : parseVersion bs = some (n, cfg.expectedCodename)) (hn : n < cfg.minVersion) :
    t.checkFirmware cfg bs = .raised .unsupportedVersion t.goInactive := by
  simp [Slp.checkFirmware, hparse, hn]

section Connect
variable {s : State} {l1 l : Link} {e : Status} (hs : s.slp.scState = .connecting)
include hs

/-- CONNECT whose open fails (43 R201). -/
theorem exec_slpConnect_openFails (hopen : s.slp.link.nextIo = (.fail, l1)) :
    exec .slpConnect s = .next (s.slpDied [] s.slp.portOpen l1 .ioFailure) := by
  rw [exec_slpConnect_connecting hs]
  refine congrArg _ (State.onSlp_goInactive ?_)
  rw [Slp.connect, Slp.serOpen, Slp.access_fail hopen]
  rfl

/-- CONNECT whose handshake fails after the transport is opened (43 R201, R209). -/
theorem exec_slpConnect_handshakeFails (hopen : s.slp.link.nextIo = (.ok, l1)) {es : List SlpEvent}
    (h : ∀ t : Slp, t.link = l1 → t.handshake s.cfg = .raised e (t.after es l).goInactive) :
    exec .slpConnect s = .next (s.slpDied ([.opened, .wait s.cfg.tResetSettle] ++ es) true l e) := by
  rw [exec_slpConnect_connecting hs]
  refine congrArg _ (State.onSlp_goInactive ?_)
  rw [Slp.connect_ok hopen, h _ rfl]
  simp [Slp.after]

/-- CONNECT whose query or answer fails (43 R210). -/
theorem exec_slpConnect_exchangeFails (hopen : s.slp.link.nextIo = (.ok, l1)) {es : List SlpEvent}
    (h : l1.ExchangeFails 0x60 es l e) :
    exec .slpConnect s = .next (s.slpDied ([.opened, .wait s.cfg.tResetSettle] ++ es) true l e) := by
  refine exec_slpConnect_handshakeFails hs hopen fun t ht => ?_
  rw [Slp.handshake_eq_exchange, Slp.exchange_fails (ht ▸ h), Run.andThen_raised]

/-- CONNECT whose line does not name a firmware it accepts (43 R201, 60_exceptions R312). -/
theorem exec_slpConnect_badLine (hopen : s.slp.link.nextIo = (.ok, l1)) {l2 l3 : Link} {raw : List Byte}
    (hwrite : l1.nextIo = (.ok, l2)) (hflush : l2.nextIo = (.ok, l3)) (hread : l3.nextRead = (.line raw, l))
    (hcheck : ∀ t : Slp, t.checkFirmware s.cfg (lineContent raw) = .raised e t.goInactive) :
    exec .slpConnect s =
      .next (s.slpDied [.opened, .wait s.cfg.tResetSettle, .tx 0x60, .flush, .rx (.line (lineContent raw))] true l
        e) := by
  refine exec_slpConnect_handshakeFails hs hopen (es := [.tx 0x60, .flush, .rx (.line (lineContent raw))])
    fun t ht => ?_
  rw [Slp.handshake_eq_exchange, Slp.exchange_ok (ht ▸ hwrite) hflush hread, Run.andThen_done, hcheck]

end Connect

/-- Settles O20: the open, then the handshake, succeed. -/
theorem connectBecomesActive : Obligations.ConnectBecomesActive := by
  unfold Obligations.ConnectBecomesActive
  rintro s l l' raw n hs ⟨l1, hopen, hok⟩ hread hparse hv
  rw [exec_slpConnect_connecting hs, State.onSlp, Slp.connect_ok hopen, Slp.handshake_ok hok hread hparse hv]
  simp [Slp.after, Slp.respond]

/-- Settles O21: the open fails, the exchange fails in one of its four ways, or the line is not accepted. -/
theorem connectFailuresEndInactive : Obligations.ConnectFailuresEndInactive := by
  unfold Obligations.ConnectFailuresEndInactive
  intro s l1 l2 l3 l4 hs
  refine ⟨exec_slpConnect_openFails hs, fun hopen => ?_⟩
  have hfails {es l e} := exec_slpConnect_exchangeFails (es := es) (l := l) (e := e) hs hopen
  refine ⟨fun hwrite => hfails (.write hwrite), fun hwrite => ?_⟩
  refine ⟨fun hflush => hfails (.flush hwrite hflush), fun hflush => ?_⟩
  refine ⟨fun hread => hfails (.timeout hwrite hflush hread), fun hread => hfails (.read hwrite hflush hread), ?_⟩
  intro raw hread
  have hbad {e} := exec_slpConnect_badLine (e := e) hs hopen hwrite hflush hread
  exact ⟨fun hline => hbad fun t => Slp.checkFirmware_invalid hline,
    fun n hparse hn => hbad fun t => Slp.checkFirmware_old hparse hn⟩

/-- Settles O23: both look at the lifecycle state first. -/
theorem connectIsRefusedWhileActive : Obligations.ConnectIsRefusedWhileActive := by
  unfold Obligations.ConnectIsRefusedWhileActive
  intro s fw hs
  exact ⟨by simp only [exec, execSlpConnect, hs], by simp only [exec, execWQueryVersion, hs]⟩

/-! ### Failures of the other commands -/

/-- Settles O38: the gate is passed, then the write or the flush fails. -/
theorem writeCommandFailuresEndInactive : Obligations.WriteCommandFailuresEndInactive := by
  unfold Obligations.WriteCommandFailuresEndInactive
  intro s fw i bytes v l1 l2 hi hs hv
  have hfails {es l} (h : s.slp.sendCmd bytes = .raised .ioFailure (s.slp.after es l).goInactive) :
      exec i s = .next (s.slpDied es s.slp.portOpen l .ioFailure) := by
    rw [exec_of_writeCommand hi]
    refine congrArg _ (State.onSlp_goInactive ?_)
    rw [Slp.writeOnly, Slp.requireGate_ok hs hv, Run.andThen_done, h, Run.andThen_raised]
  exact ⟨fun hwrite => hfails (Slp.sendCmd_writeFail hwrite),
    fun hwrite hflush => hfails (Slp.sendCmd_flushFail hwrite hflush)⟩

/-- A command of one byte and one line: its gate, the exchange, and what `k` does with the line (43 R210, R211). -/
def Slp.lineRun (v : Nat) (b : Byte) (k : List Byte → Slp → Run Slp Result) (t : Slp) : Run Slp Result :=
  (t.requireGate v).andThen fun _ t1 => (t1.exchange b).andThen k

theorem Slp.readDigital_eq_lineRun (cfg : Config) :
    Slp.readDigital cfg = Slp.lineRun 0 0x3F fun bs t => .done (.pins (decodePinState cfg bs)) t :=
  Slp.readDigital_eq_pinQuery cfg

theorem Slp.readAnalog_eq_lineRun {cfg : Config} {pin : Int} (hp : cfg.apinMin ≤ pin ∧ pin ≤ cfg.apinMax) :
    Slp.readAnalog cfg pin = Slp.lineRun 0 (readAnalogByte pin.toNat) fun bs t => t.analogResult cfg bs := by
  funext t
  simp only [Slp.readAnalog, Slp.lineRun, Slp.requireGate_zero, Run.andThen_assoc, (analogPinValid_iff ..).2 hp,
    if_true, Run.andThen_done]

/-- The commands of one byte and one line, and their images, are such runs, whatever state SLP is in (30_encoding R93;
log 6). -/
theorem exec_of_lineCommand {s : State} {i : Instr} {b : Byte} {v : Nat} (h : lineCommand s.cfg i = some (b, v)) :
    ∃ k, exec i s = .next (s.onSlp (Slp.lineRun v b k)) := by
  have hanalog {pin : Int} (hp : s.cfg.apinMin ≤ pin ∧ pin ≤ s.cfg.apinMax) :
      ∃ k, exec (.slpReadAnalog pin) s = .next (s.onSlp (Slp.lineRun 0 (readAnalogByte pin.toNat) k)) :=
    ⟨_, by rw [← Slp.readAnalog_eq_lineRun hp]; rfl⟩
  cases i <;> simp only [lineCommand, Option.ite_none_right_eq_some, reduceCtorEq] at h
  case slpReadAnalog pin =>
    obtain ⟨hp, ⟨⟩⟩ := h
    exact hanalog hp
  case wReadAnalog pin =>
    obtain ⟨hp, ⟨⟩⟩ := h
    exact hanalog (pin := pin) (by exact_mod_cast hp)
  case slpReadDigital => cases h; exact ⟨_, by rw [← Slp.readDigital_eq_lineRun]; rfl⟩
  case wReadDigital => cases h; exact ⟨_, by rw [← Slp.readDigital_eq_lineRun]; rfl⟩
  -- the commands of 45_serial_persistent, each of which passes its version gate first
  all_goals
    cases h
    exact ⟨_, rfl⟩

/-- Settles O39: the gate is passed, then the exchange fails in one of its four ways. -/
theorem lineCommandFailuresEndInactive : Obligations.LineCommandFailuresEndInactive := by
  unfold Obligations.LineCommandFailuresEndInactive
  intro s fw i b v l1 l2 l3 hi hs hv
  obtain ⟨k, hexec⟩ := exec_of_lineCommand hi
  have hfails {es l e} (h : s.slp.link.ExchangeFails b es l e) :
      exec i s = .next (s.slpDied es s.slp.portOpen l e) := by
    rw [hexec]
    refine congrArg _ (State.onSlp_goInactive ?_)
    rw [Slp.lineRun, Slp.requireGate_ok hs hv, Run.andThen_done, Slp.exchange_fails h, Run.andThen_raised]
  refine ⟨fun hwrite => hfails (.write hwrite), fun hwrite => ?_⟩
  refine ⟨fun hflush => hfails (.flush hwrite hflush), fun hflush => ?_⟩
  exact ⟨fun hread => hfails (.timeout hwrite hflush hread), fun hread => hfails (.read hwrite hflush hread)⟩

/-! ### The version reads and CLOSE -/

/-- Settles O24: the guard hands the metadata over. -/
theorem versionReadsAnswerTheCache : Obligations.VersionReadsAnswerTheCache := by
  unfold Obligations.VersionReadsAnswerTheCache
  intro s fw hs
  have hguard := Slp.requireActive_active hs
  exact ⟨congrArg _ (State.onSlp_done (by rw [hguard, Run.andThen_done])),
    congrArg _ (State.onSlp_done (by rw [hguard, Run.andThen_done]))⟩

theorem Slp.close_active {t : Slp} {fw : Firmware} (h : t.scState = .active fw) :
    t.close = .done .none t.goInactive := by
  simp only [Slp.close, h]

theorem Slp.close_other {t : Slp} (h : ∀ fw, t.scState ≠ .active fw) : t.close = .done .none t := by
  unfold Slp.close
  split
  · rfl
  · exact absurd ‹_› (h _)
  · rfl

/-- Settles O25: GoInactive in Active, nothing elsewhere. -/
theorem slpCloseReleasesTheTransport : Obligations.SlpCloseReleasesTheTransport := by
  unfold Obligations.SlpCloseReleasesTheTransport
  refine fun s => ⟨fun fw hs => ?_, fun hs => congrArg _ (State.onSlp_done (Slp.close_other hs))⟩
  have hexec : exec .slpClose s = .next (s.onSlp Slp.close) := rfl
  rw [hexec, State.onSlp, Slp.close_active hs, Slp.goInactive_eq]
  simp [State.slpDied, Slp.respond]

end Sys2Proof.Machine

/-! PROOFS. The pins (44_serial_gpio): what SET_DIGITAL, READ_DIGITAL and READ_ANALOG answer, and what the two readers of
their lines, the integer and the pin-state line, make of any line.

SET_DIGITAL is a command that only writes, and the two reads are commands of one byte and one line, so that their I/O
failures are those of `writeCommandFailuresEndInactive` and `lineCommandFailuresEndInactive`. What a pin-state line says
of a pin is said once, byte by byte (`PinState.get_letter`); the line of a full mapping holds one letter for each pin
(`filter_pinLine`). -/

namespace Sys2Proof.Machine

/-! ### How a command of SLP ends -/

section Ends
variable {s : State} {run : Slp → Run Slp Result}

/-- A guard that raises leaves everything but the response as it was (60_exceptions R311). -/
theorem State.onSlp_raised {e : Status} (h : run s.slp = .raised e s.slp) : s.onSlp run = s.slpAnswer e .none := by
  rw [State.onSlp, h]
  rfl

/-- A command that completes after its events keeps its lifecycle state (10_state R35). -/
theorem State.onSlp_after {res : Result} {es : List SlpEvent} {l : Link} (h : run s.slp = .done res (s.slp.after es l)) :
    s.onSlp run = s.slpSent es l .ok res := by
  rw [State.onSlp, h]
  rfl

end Ends

/-! ### SET_DIGITAL -/

section SetDigital
variable {cfg : Config} {pin : Int} {value : Bit} {t : Slp}

theorem Slp.setDigital_other (hs : ∀ fw, t.scState ≠ .active fw) :
    t.setDigital cfg pin value = .raised .inactive t := by
  rw [Slp.setDigital, Slp.requireActive_other hs, Run.andThen_raised]

theorem Slp.setDigital_badPin {fw : Firmware} (hs : t.scState = .active fw)
    (hp : pin < cfg.dpinMin ∨ cfg.dpinMax < pin) : t.setDigital cfg pin value = .raised .invalidPin t := by
  rw [Slp.setDigital, Slp.requireActive_active hs, Run.andThen_done, digitalPinValid_false hp]
  rfl

/-- SET_DIGITAL of a digital pin only writes the byte of the pin and value (30_encoding R102). -/
theorem writeCommand_slpSetDigital (hp : cfg.dpinMin ≤ pin ∧ pin ≤ cfg.dpinMax) {b : Byte}
    (hb : (b.toNat : Int) = (if value then 0x41 else 0x61) + pin) :
    writeCommand cfg (.slpSetDigital pin value) = some ([b], 0) := by
  rw [writeCommand, if_pos hp, ← setDigitalByte_eq (by omega) hb]
  cases value <;> rfl

end SetDigital

/-- Settles O27: the two guards raise before any access; past them SET_DIGITAL is a command that only writes. -/
theorem setDigitalWritesOneByte : Obligations.SetDigitalWritesOneByte := by
  unfold Obligations.SetDigitalWritesOneByte
  intro s pin value
  refine ⟨fun hs => congrArg _ (State.onSlp_raised (Slp.setDigital_other hs)), fun fw hs => ⟨fun hp => ?_, ?_⟩⟩
  · exact congrArg _ (State.onSlp_raised (Slp.setDigital_badPin hs hp))
  · intro hp b hb
    have hi := writeCommand_slpSetDigital hp hb
    have hfails l1 l2 := writeCommandFailuresEndInactive s fw _ _ _ l1 l2 hi hs (Nat.zero_le _)
    exact ⟨fun l hok => writeCommandsSendTheirBytes s fw _ _ _ l hi hs (Nat.zero_le _) hok,
      fun l hwrite => (hfails l l).1 hwrite, fun l l' hwrite hflush => (hfails l l').2 hwrite hflush⟩

/-! ### READ_DIGITAL -/

theorem Slp.readDigital_other {cfg : Config} {t : Slp} (hs : ∀ fw, t.scState ≠ .active fw) :
    t.readDigital cfg = .raised .inactive t := by
  rw [Slp.readDigital, Slp.requireActive_other hs, Run.andThen_raised]

/-- Settles O28: past its guard READ_DIGITAL is a command of one byte and one line, and answers as its image does. -/
theorem readDigitalDecodesTheLine : Obligations.ReadDigitalDecodesTheLine := by
  unfold Obligations.ReadDigitalDecodesTheLine
  refine fun s => ⟨fun hs => congrArg _ (State.onSlp_raised (Slp.readDigital_other hs)), fun fw hs => ?_⟩
  have hfails l1 l2 l3 := lineCommandFailuresEndInactive s fw .slpReadDigital 0x3F 0 l1 l2 l3 rfl hs (Nat.zero_le _)
  refine ⟨fun l => (hfails l l l).1, fun l l' hwrite => ((hfails l l' l').2 hwrite).1, fun l l' hok => ?_⟩
  refine ⟨fun raw hread => ?_, ?_⟩
  · exact pinQueryImagesAnswerTheLine s fw l l' raw .wReadDigital 0x3F 0 (.inl ⟨rfl, rfl, rfl⟩) hs (Nat.zero_le _) hok
      hread
  · obtain ⟨l1, hwrite, l2, hflush, rfl⟩ := hok
    exact ((hfails l1 l2 l').2 hwrite).2 hflush

/-! ### READ_ANALOG -/

section ReadAnalog
variable {cfg : Config} {t : Slp} {bs : List Byte}

theorem Slp.analogResult_ok {v : Nat} (hv : parseInt bs = some v) (hmax : v ≤ cfg.analogMax) :
    t.analogResult cfg bs = .done (.number v) t := by
  simp only [Slp.analogResult, hv, if_neg (Nat.not_lt.2 hmax)]

theorem Slp.analogResult_malformed (h : parseInt bs = none ∨ ∃ v, parseInt bs = some v ∧ cfg.analogMax < v) :
    t.analogResult cfg bs = .raised .malformedResponse t.goInactive := by
  rcases h with hnone | ⟨v, hv, hmax⟩
  · simp only [Slp.analogResult, hnone, raiseInactive_eq]
  · simp only [Slp.analogResult, hv, if_pos hmax, raiseInactive_eq]

theorem Slp.readAnalog_badPin {pin : Int} {fw : Firmware} (hs : t.scState = .active fw)
    (hp : pin < cfg.apinMin ∨ cfg.apinMax < pin) : t.readAnalog cfg pin = .raised .invalidPin t := by
  rw [Slp.readAnalog, Slp.requireActive_active hs, Run.andThen_done, analogPinValid_false hp]
  rfl

/-- READ_ANALOG in Active whose accesses and read succeed leaves it to the line what it answers (44 R236). -/
theorem Slp.readAnalog_line {pin : Int} {b : Byte} {fw : Firmware} {l l' : Link} {raw : List Byte}
    (hs : t.scState = .active fw) (hp : cfg.apinMin ≤ pin ∧ pin ≤ cfg.apinMax) (hb : (b.toNat : Int) = 0x30 + pin)
    (hok : Link.OkTimes 2 t.link l) (hread : l.nextRead = (.line raw, l')) :
    t.readAnalog cfg pin =
      (t.after [.tx b, .flush, .rx (.line (lineContent raw))] l').analogResult cfg (lineContent raw) := by
  obtain ⟨l1, hwrite, l2, hflush, rfl⟩ := hok
  rw [Slp.readAnalog_eq_lineRun hp, Slp.lineRun, Slp.requireGate_ok hs (Nat.zero_le _), Run.andThen_done,
    readAnalogByte_eq (by omega) hb, Slp.exchange_ok hwrite hflush hread, Run.andThen_done]

end ReadAnalog

/-- READ_ANALOG and its image run one command (log 6). -/
theorem exec_readAnalog {i : Instr} {pin : Int} (hi : i = .slpReadAnalog pin ∨ (0 ≤ pin ∧ i = .wReadAnalog pin.toNat))
    (s : State) : exec i s = .next (s.onSlp (Slp.readAnalog s.cfg pin)) := by
  rcases hi with rfl | ⟨h0, rfl⟩
  · rfl
  · rw [exec, execWReadAnalog, Int.toNat_of_nonneg h0]

/-- Settles O29: the guard raises, or the line is a numeral in range, or it is not. -/
theorem readAnalogAnswersTheNumeral : Obligations.ReadAnalogAnswersTheNumeral := by
  unfold Obligations.ReadAnalogAnswersTheNumeral
  intro s fw pin i hi hs
  rw [exec_readAnalog hi]
  refine ⟨fun hp => congrArg _ (State.onSlp_raised (Slp.readAnalog_badPin hs hp)), ?_⟩
  intro hp b l l' raw hb hok hread
  have hline := Slp.readAnalog_line hs hp hb hok hread
  refine ⟨fun v hv hmax => congrArg _ (State.onSlp_after ?_), fun hbad => congrArg _ (State.onSlp_goInactive ?_)⟩
  · rw [hline, Slp.analogResult_ok hv hmax]
  · rw [hline, Slp.analogResult_malformed hbad]

/-! ### The integer line -/

/-- The byte of a decimal digit is a digit character and has the digit's value (30_encoding R100, R106). -/
theorem digitByte_toNat {d : Nat} (h : d < 10) : (BitVec.ofNat 8 (0x30 + d) : Byte).toNat = 0x30 + d := by
  rw [BitVec.toNat_ofNat, Nat.mod_eq_of_lt (by omega)]

/-- A line of decimal digits, the least significant last, is answered as the number they make (30_encoding R107). -/
theorem parseInt_digits {ds : List Nat} (hne : ds ≠ []) (hd : ∀ d ∈ ds, d < 10) :
    parseInt (ds.reverse.map fun d => BitVec.ofNat 8 (0x30 + d)) = some (Nat.ofDigits 10 ds) := by
  have hdigits : ((ds.reverse.map fun d => BitVec.ofNat 8 (0x30 + d)).all isDigit) = true := by
    simp only [List.all_map, List.all_eq_true, List.mem_reverse, Function.comp_apply, isDigit_iff]
    intro d hmem
    have hlt := hd d hmem
    rw [digitByte_toNat hlt]
    omega
  have hvalues : ds.map ((fun b : Byte => b.toNat - 0x30) ∘ fun d => BitVec.ofNat 8 (0x30 + d)) = ds := by
    refine (List.map_congr_left fun d hmem => ?_).trans (List.map_id ds)
    rw [Function.comp_apply, digitByte_toNat (hd d hmem), Nat.add_sub_cancel_left, id]
  rw [parseInt, if_neg (by simpa using hne), if_pos hdigits, decimalValue_eq_ofDigits, ← List.map_reverse,
    List.reverse_reverse, List.map_map, hvalues]

/-- Leading zeros do not change the number (30_encoding R107). -/
theorem parseInt_leadingZeros {ds : List Nat} {k : Nat} (hne : ds ++ List.replicate k 0 ≠ []) (hd : ∀ d ∈ ds, d < 10) :
    parseInt (List.replicate k 0x30 ++ ds.reverse.map fun d => BitVec.ofNat 8 (0x30 + d)) =
      some (Nat.ofDigits 10 ds) := by
  have hd' : ∀ d ∈ ds ++ List.replicate k 0, d < 10 := by
    intro d hmem
    rcases List.mem_append.1 hmem with hmem | hmem
    · exact hd d hmem
    · rw [List.eq_of_mem_replicate hmem]
      decide
  simpa [Nat.ofDigits_append] using parseInt_digits hne hd'

/-- Settles O43: a numeral with its leading zeros, a line of zeros, and a line some byte of which is no digit. -/
theorem integerLineGrammar : Obligations.IntegerLineGrammar := by
  unfold Obligations.IntegerLineGrammar
  refine ⟨fun n k hn => ?_, fun k => ?_, ?_⟩
  · have hne : Nat.digits 10 n ≠ [] := Nat.digits_ne_nil_iff_ne_zero.2 hn.ne'
    rw [parseInt_leadingZeros (by simp [hne]) fun d => Nat.digits_lt_base (by decide), Nat.ofDigits_digits]
  · simpa using parseInt_leadingZeros (ds := []) (k := k + 1) (by simp) (by simp)
  · rintro bs (rfl | ⟨b, hmem, hb⟩)
    · rfl
    · have hall : ¬ bs.all isDigit = true := fun hall => by
        have := (isDigit_iff b).1 (List.all_eq_true.1 hall b hmem)
        omega
      rw [parseInt, if_neg (List.ne_nil_of_mem hmem), if_neg hall]

/-! ### The pin-state line -/

/-- The two state letters of a pin, the HIGH one and the LOW one (30_encoding R102). -/
abbrev IsStateLetter (pin : Nat) (b : Byte) : Prop := b.toNat = 0x41 + pin ∨ b.toNat = 0x61 + pin

/-- What one byte of a line says of a digital pin: its state letters assign, every other byte leaves it (44 R234). -/
theorem PinState.get_letter {cfg : Config} (hw : cfg.WireOk) {pin : Nat} (hp : cfg.dpinMin ≤ pin ∧ pin ≤ cfg.dpinMax)
    (m : PinState) (b : Byte) :
    (m.letter cfg b).get pin = if IsStateLetter pin b then some (decide (b.toNat = 0x41 + pin)) else m.get pin := by
  obtain ⟨-, hmax⟩ := hw
  simp only [PinState.letter]
  split
  · rw [PinState.get_put]
    by_cases hlow : b.toNat = 0x61 + pin
    · rw [if_pos (by omega), if_pos (.inr hlow), decide_eq_false (by omega)]
    · rw [if_neg (by omega), if_neg (by omega)]
  · split
    · rw [PinState.get_put]
      by_cases hhigh : b.toNat = 0x41 + pin
      · rw [if_pos (by omega), if_pos (.inl hhigh), decide_eq_true hhigh]
      · rw [if_neg (by omega), if_neg (by omega)]
    · rw [if_neg (by omega)]

/-- A byte of a line says nothing of a number that is no digital pin (44 R234). -/
theorem PinState.get_letter_noPin {cfg : Config} {pin : Nat} (hp : pin < cfg.dpinMin ∨ cfg.dpinMax < pin)
    (m : PinState) (b : Byte) : (m.letter cfg b).get pin = m.get pin := by
  simp only [PinState.letter]
  split
  · rw [PinState.get_put, if_neg (by omega)]
  · split
    · rw [PinState.get_put, if_neg (by omega)]
    · rfl

theorem decodePinState_concat (cfg : Config) (bs : List Byte) (b : Byte) :
    decodePinState cfg (bs ++ [b]) = (decodePinState cfg bs).letter cfg b := by
  rw [decodePinState, List.foldl_concat, decodePinState]

/-- The last state letter of a digital pin decides its value (44 R234). -/
theorem get_decodePinState {cfg : Config} (hw : cfg.WireOk) {pin : Nat} (hp : cfg.dpinMin ≤ pin ∧ pin ≤ cfg.dpinMax)
    (bs : List Byte) :
    (decodePinState cfg bs).get pin =
      (bs.filter fun b => IsStateLetter pin b).getLast?.map fun b => decide (b.toNat = 0x41 + pin) := by
  induction bs using List.reverseRecOn with
  | nil => rfl
  | append_singleton bs b ih =>
    rw [decodePinState_concat, PinState.get_letter hw hp, ih, List.filter_append]
    by_cases hb : IsStateLetter pin b
    · rw [if_pos hb, List.filter_singleton]
      simp [hb]
    · rw [if_neg hb, List.filter_singleton]
      simp [hb]

/-- A number that is no digital pin is no key (44 R234). -/
theorem get_decodePinState_noPin {cfg : Config} {pin : Nat} (hp : pin < cfg.dpinMin ∨ cfg.dpinMax < pin)
    (bs : List Byte) : (decodePinState cfg bs).get pin = none := by
  induction bs using List.reverseRecOn with
  | nil => rfl
  | append_singleton bs b ih => rw [decodePinState_concat, PinState.get_letter_noPin hp, ih]

/-- Settles O45: one byte after another, for a digital pin and for any other number. -/
theorem lastStateLetterDecides : Obligations.LastStateLetterDecides := by
  unfold Obligations.LastStateLetterDecides
  exact fun cfg bs pin hw =>
    ⟨fun hp => get_decodePinState hw hp bs, fun hp => get_decodePinState_noPin hp bs, decodePinState_wf cfg bs⟩

/-! ### The line of a full mapping -/

/-- The letter that reports a pin is the letter that sets it (30_encoding R102). -/
theorem pinLine_eq_map (cfg : Config) (value : Nat → Bit) :
    pinLine cfg value = (digitalPins cfg).map fun pin : Nat => setDigitalByte pin (value pin) := rfl

theorem mem_digitalPins (cfg : Config) (pin : Nat) : pin ∈ digitalPins cfg ↔ cfg.dpinMin ≤ pin ∧ pin ≤ cfg.dpinMax := by
  rw [digitalPins, List.mem_range'_1]
  omega

theorem nodup_digitalPins (cfg : Config) : (digitalPins cfg).Nodup := List.nodup_range'

theorem setDigitalByte_toNat {pin : Nat} (h : pin ≤ 30) (v : Bit) :
    (setDigitalByte pin v).toNat = (if v then 0x41 else 0x61) + pin := by
  cases v
  · exact setLowByte_toNat h
  · exact setHighByte_toNat h

/-- The letter of one pin is a state letter of no other, where the ranges keep them apart (30_encoding R109). -/
theorem isStateLetter_setDigitalByte {pin q : Nat} (hpin : pin ≤ 30) (hq : q ≤ 30) (v : Bit) :
    IsStateLetter pin (setDigitalByte q v) ↔ q = pin := by
  rw [IsStateLetter, setDigitalByte_toNat hq]
  cases v
  · simp
    omega
  · simp
    omega

/-- The line of a full mapping holds one letter of each digital pin (44 R235 b). -/
theorem filter_pinLine {cfg : Config} (hw : cfg.WireOk) {pin : Nat} (hp : cfg.dpinMin ≤ pin ∧ pin ≤ cfg.dpinMax)
    (value : Nat → Bit) :
    (pinLine cfg value).filter (fun b => IsStateLetter pin b) = [setDigitalByte pin (value pin)] := by
  have hmem := (mem_digitalPins cfg pin).2 hp
  have hone : (digitalPins cfg).filter (· == pin) = [pin] := by
    rw [List.filter_beq, List.count_eq_one_of_mem (nodup_digitalPins cfg) hmem, List.replicate_one]
  obtain ⟨-, hmax⟩ := hw
  have hletters : (digitalPins cfg).filter ((fun b => decide (IsStateLetter pin b)) ∘ fun q : Nat =>
      setDigitalByte q (value q)) = (digitalPins cfg).filter (· == pin) := by
    refine List.filter_congr fun q hq => ?_
    have hq30 : q ≤ 30 := ((mem_digitalPins cfg q).1 hq).2.trans hmax
    rw [Function.comp_apply, Bool.eq_iff_iff, decide_eq_true_iff, beq_iff_eq]
    exact isStateLetter_setDigitalByte (hp.2.trans hmax) hq30 (value q)
  rw [pinLine_eq_map, List.filter_map, hletters, hone, List.map_singleton]

/-- The letter of a pin stands at the pin's place (44 R235 b). -/
theorem getElem?_pinLine {cfg : Config} {pin : Nat} (hp : cfg.dpinMin ≤ pin ∧ pin ≤ cfg.dpinMax) (value : Nat → Bit) :
    (pinLine cfg value)[pin - cfg.dpinMin]? = some (setDigitalByte pin (value pin)) := by
  have hpin : (digitalPins cfg)[pin - cfg.dpinMin]? = some pin := by
    rw [digitalPins, List.getElem?_range' (by omega)]
    exact congrArg some (by omega)
  rw [pinLine_eq_map, List.getElem?_map, hpin, Option.map_some]

/-- Settles O46: the one letter of the pin is its last, and it is the letter that sets the pin. -/
theorem pinLineRoundTrip : Obligations.PinLineRoundTrip := by
  unfold Obligations.PinLineRoundTrip
  intro cfg value pin hw hmin hmax
  refine ⟨?_, getElem?_pinLine ⟨hmin, hmax⟩ value⟩
  have hvalue : decide ((setDigitalByte pin (value pin)).toNat = 0x41 + pin) = value pin := by
    rw [setDigitalByte_toNat (hmax.trans hw.2)]
    cases value pin <;> simp
  rw [get_decodePinState hw ⟨hmin, hmax⟩, filter_pinLine hw ⟨hmin, hmax⟩, List.getLast?_singleton, Option.map_some,
    hvalue]

end Sys2Proof.Machine

/-! PROOFS. The remote store (45_serial_persistent): the version gate of its commands, and what GET_NAME, STORE_NAME,
SAVE_POWER_ON and READ_POWER_ON answer past it.

SAVE_POWER_ON is a command that only writes, GET_NAME and READ_POWER_ON are commands of one byte and one line, so that
their I/O failures are those of `writeCommandFailuresEndInactive` and `lineCommandFailuresEndInactive`. STORE_NAME sends
the name, then reads it back by the exchange of GET_NAME (`Slp.storeName_eq`). -/

namespace Sys2Proof.Machine

/-! ### The version gate -/

section Gate
variable {s : State} {i : Instr} {v : Nat}

section Gated
variable {k : Unit → Slp → Run Slp Result}
  (hexec : exec i s = .next (s.onSlp fun t => (t.requireGate v).andThen k))
include hexec

/-- A gated command below its version ends at the gate (43 R211, 45 R260). -/
theorem exec_belowVersion {fw : Firmware} (hs : s.slp.scState = .active fw) (hv : fw.verNum < v) :
    exec i s = .next (s.slpAnswer .unsupportedVersion .none) := by
  rw [hexec]
  exact congrArg _ (State.onSlp_raised (by rw [Slp.requireGate_below hs hv, Run.andThen_raised]))

/-- A gated command while not Active ends at the gate (43 R211, 60_exceptions R296). -/
theorem exec_gated_other (hs : ∀ fw, s.slp.scState ≠ .active fw) :
    exec i s = .next (s.slpAnswer .inactive .none) := by
  rw [hexec]
  exact congrArg _ (State.onSlp_raised (by rw [Slp.requireGate_other hs, Run.andThen_raised]))

end Gated

/-- A command that only writes passes its gate first. -/
theorem exec_writeCommand_belowVersion {bytes : List Byte} {fw : Firmware}
    (hi : writeCommand s.cfg i = some (bytes, v)) (hs : s.slp.scState = .active fw) (hv : fw.verNum < v) :
    exec i s = .next (s.slpAnswer .unsupportedVersion .none) :=
  exec_belowVersion (exec_of_writeCommand hi) hs hv

/-- A command of one byte and one line passes its gate first. -/
theorem exec_lineCommand_belowVersion {b : Byte} {fw : Firmware} (hi : lineCommand s.cfg i = some (b, v))
    (hs : s.slp.scState = .active fw) (hv : fw.verNum < v) :
    exec i s = .next (s.slpAnswer .unsupportedVersion .none) := by
  obtain ⟨k, hexec⟩ := exec_of_lineCommand hi
  exact exec_belowVersion hexec hs hv

end Gate

/-! ### STORE_NAME -/

/-- What STORE_NAME does with the line it reads back (45 R263). -/
def Slp.verifyName (name : NameBytes) (bs : List Byte) (t : Slp) : Run Slp Result :=
  if bs = name then .done .none t else raise .nameMismatch t

/-- STORE_NAME as one gated run: the name is sent, read back and verified (45 R260, R263). -/
theorem Slp.storeName_eq (cfg : Config) (name : NameBytes) :
    Slp.storeName cfg name = fun t => (t.requireGate cfg.vName).andThen fun _ t1 =>
      (t1.sendCmd (0x23 :: name)).andThen fun _ t2 => (t2.exchange 0x3D).andThen (Slp.verifyName name) := by
  funext t
  rw [Slp.storeName, Slp.sendName, Run.andThen_assoc]
  rfl

theorem exec_slpStoreName_belowVersion {s : State} {fw : Firmware} (name : NameBytes)
    (hs : s.slp.scState = .active fw) (hv : fw.verNum < s.cfg.vName) :
    exec (.slpStoreName name) s = .next (s.slpAnswer .unsupportedVersion .none) :=
  exec_belowVersion (by rw [← Slp.storeName_eq]; rfl) hs hv

section StoreName
variable {cfg : Config} {t : Slp} {fw : Firmware} {name : NameBytes} {l1 l2 l : Link} {es : List SlpEvent} {e : Status}
  (hs : t.scState = .active fw) (hv : cfg.vName ≤ fw.verNum)
include hs hv

/-- STORE_NAME whose first half fails ends with that failure. -/
theorem Slp.storeName_sendFails {u : Slp} (hsend : t.sendCmd (0x23 :: name) = .raised e u) :
    t.storeName cfg name = .raised e u := by
  simp only [Slp.storeName_eq, Slp.requireGate_ok hs hv, Run.andThen_done, hsend, Run.andThen_raised]

variable (hwrite : t.link.nextIo = (.ok, l1)) (hflush : l1.nextIo = (.ok, l2))
include hwrite hflush

/-- STORE_NAME whose first half succeeds goes on with the read-back. -/
theorem Slp.storeName_sent :
    t.storeName cfg name =
      ((t.after (.tx 0x23 :: name.map .tx ++ [.flush]) l2).exchange 0x3D).andThen (Slp.verifyName name) := by
  simp only [Slp.storeName_eq, Slp.requireGate_ok hs hv, Run.andThen_done, Slp.sendCmd_ok hwrite hflush, List.map_cons]

theorem Slp.storeName_readBackFails (hfails : l2.ExchangeFails 0x3D es l e) :
    t.storeName cfg name =
      .raised e (t.after (.tx 0x23 :: name.map .tx ++ [.flush] ++ es) l).goInactive := by
  rw [Slp.storeName_sent hs hv hwrite hflush, Slp.exchange_fails hfails, Run.andThen_raised, Slp.after_after]

theorem Slp.storeName_readBack {l3 l4 : Link} {raw : List Byte} (hwrite' : l2.nextIo = (.ok, l3))
    (hflush' : l3.nextIo = (.ok, l4)) (hread : l4.nextRead = (.line raw, l)) :
    t.storeName cfg name =
      Slp.verifyName name (lineContent raw)
        (t.after (.tx 0x23 :: name.map .tx ++ [.flush, .tx 0x3D, .flush, .rx (.line (lineContent raw))]) l) := by
  rw [Slp.storeName_sent hs hv hwrite hflush, Slp.exchange_ok hwrite' hflush' hread, Run.andThen_done, Slp.after_after,
    List.append_assoc, List.singleton_append]

end StoreName

/-- The verification completes the command or ends it, and keeps the lifecycle state (45 R263). -/
theorem State.onSlp_verifyName {s : State} {run : Slp → Run Slp Result} {name : NameBytes} {bs : List Byte}
    {es : List SlpEvent} {l : Link} (h : run s.slp = Slp.verifyName name bs (s.slp.after es l)) :
    s.onSlp run = s.slpSent es l (if bs = name then .ok else .nameMismatch) .none := by
  rw [State.onSlp, h, Slp.verifyName]
  split <;> rfl

/-- Settles O31: the gate raises, or both halves succeed and the line is compared with the name. -/
theorem storeNameVerifiesByReadingBack : Obligations.StoreNameVerifiesByReadingBack := by
  unfold Obligations.StoreNameVerifiesByReadingBack
  refine fun s fw name hs => ⟨exec_slpStoreName_belowVersion name hs, ?_⟩
  rintro l l' raw hv ⟨l1, hwrite, l2, hflush, l3, hwrite', l4, hflush', rfl⟩ hread
  exact congrArg _ (State.onSlp_verifyName (Slp.storeName_readBack hs hv hwrite hflush hwrite' hflush' hread))

/-- Settles O32: the first half fails, or the read-back fails in one of the four ways of an exchange. -/
theorem storeNameFailuresEndInactive : Obligations.StoreNameFailuresEndInactive := by
  unfold Obligations.StoreNameFailuresEndInactive
  intro s fw name l l' hs hv
  have hends {es l e} (h : s.slp.storeName s.cfg name = .raised e (s.slp.after es l).goInactive) :
      exec (.slpStoreName name) s = .next (s.slpDied es s.slp.portOpen l e) :=
    congrArg _ (State.onSlp_goInactive h)
  have hreadBack {l1 l2 l es e} (hwrite : s.slp.link.nextIo = (.ok, l1)) (hflush : l1.nextIo = (.ok, l2))
      (hfails : l2.ExchangeFails 0x3D es l e) := hends (Slp.storeName_readBackFails hs hv hwrite hflush hfails)
  refine ⟨fun n es hn => ?_, ?_⟩
  · simp only [List.mem_cons, List.not_mem_nil, or_false, Prod.mk.injEq] at hn
    rcases hn with ⟨rfl, rfl⟩ | ⟨rfl, rfl⟩ | ⟨rfl, rfl⟩ | ⟨rfl, rfl⟩
    · rintro rfl hfail
      exact hends (Slp.storeName_sendFails hs hv (Slp.sendCmd_writeFail hfail))
    · rintro ⟨l1, hwrite, rfl⟩ hfail
      exact hends (Slp.storeName_sendFails hs hv (Slp.sendCmd_flushFail hwrite hfail))
    · rintro ⟨l1, hwrite, l2, hflush, rfl⟩ hfail
      simpa using hreadBack hwrite hflush (.write hfail)
    · rintro ⟨l1, hwrite, l2, hflush, l3, hwrite', rfl⟩ hfail
      simpa using hreadBack hwrite hflush (.flush hwrite' hfail)
  · rintro ⟨l1, hwrite, l2, hflush, l3, hwrite', l4, hflush', rfl⟩
    refine ⟨fun hread => ?_, fun hread => ?_⟩
    · simpa using hreadBack hwrite hflush (.timeout hwrite' hflush' hread)
    · simpa using hreadBack hwrite hflush (.read hwrite' hflush' hread)

/-- STORE_NAME shows OK only where the content of some line is the name: every other end shows an error. -/
theorem Slp.storeName_ok {cfg : Config} {name : NameBytes} {t : Slp} {res : Result}
    (h : (Slp.finish (t.storeName cfg name)).rsp = some ⟨.ok, res⟩) : ∃ raw, lineContent raw = name := by
  simp only [Slp.storeName_eq] at h
  rcases Slp.requireGate_cases cfg.vName t with ⟨fw, -, hgate⟩ | ⟨fw, -, -, hgate⟩ | ⟨-, hgate⟩ <;> rw [hgate] at h
  · rw [Run.andThen_done] at h
    rcases Slp.sendCmd_cases (0x23 :: name) t with ⟨l1, l2, -, -, hsend⟩ | ⟨es, l, -, hsend⟩ <;> rw [hsend] at h
    · rw [Run.andThen_done] at h
      rcases Slp.exchange_cases 0x3D (t.after ((0x23 :: name).map .tx ++ [.flush]) l2) with
        ⟨raw, l, hread⟩ | ⟨e, es, l, he, -, hread⟩ <;> rw [hread] at h
      · by_cases hname : lineContent raw = name
        · exact ⟨raw, hname⟩
        · simp [Slp.verifyName, hname] at h
      · rcases he with rfl | rfl <;> simp at h
    · simp at h
  · simp at h
  · simp at h

/-- Settles O40: the content of a line holds no line feed. -/
theorem nameWithLineFeedNeverVerifies : Obligations.NameWithLineFeedNeverVerifies := by
  unfold Obligations.NameWithLineFeedNeverVerifies
  rintro s t name ⟨st, res⟩ hname ⟨⟩ hrsp rfl
  obtain ⟨raw, rfl⟩ := Slp.storeName_ok hrsp
  exact lineFeed_not_mem_lineContent raw hname

/-! ### GET_NAME and the power-on state -/

/-- Settles O36: every command of the remote store starts with its gate. -/
theorem versionGatesChangeNothing : Obligations.VersionGatesChangeNothing := by
  unfold Obligations.VersionGatesChangeNothing
  intro s fw name hs
  simp only [List.mem_cons, List.not_mem_nil, or_false]
  refine ⟨?_, ?_, ?_⟩
  · rintro i (rfl | rfl | rfl | rfl) hv
    · exact exec_lineCommand_belowVersion rfl hs hv
    · exact exec_slpStoreName_belowVersion name hs hv
    · exact exec_lineCommand_belowVersion rfl hs hv
    · exact exec_writeCommand_belowVersion rfl hs hv
  · rintro i (rfl | rfl) hv
    · exact exec_writeCommand_belowVersion rfl hs hv
    · exact exec_writeCommand_belowVersion rfl hs hv
  · rintro i (rfl | rfl) hv
    · exact exec_lineCommand_belowVersion rfl hs hv
    · exact exec_lineCommand_belowVersion rfl hs hv

/-- GET_NAME in Active, at its version, whose accesses and read succeed (45 R261). -/
theorem Slp.getName_ok {cfg : Config} {t : Slp} {fw : Firmware} {l l' : Link} {raw : List Byte}
    (hs : t.scState = .active fw) (hv : cfg.vName ≤ fw.verNum) (hok : Link.OkTimes 2 t.link l)
    (hread : l.nextRead = (.line raw, l')) :
    t.getName cfg =
      .done (.bytes (lineContent raw)) (t.after [.tx 0x3D, .flush, .rx (.line (lineContent raw))] l') := by
  obtain ⟨l1, hwrite, l2, hflush, rfl⟩ := hok
  rw [Slp.getName, Slp.requireGate_ok hs hv, Run.andThen_done, Slp.exchange_ok hwrite hflush hread, Run.andThen_done]

/-- Settles O30: the image runs the command, and the content is handed over as it is. -/
theorem getNameAnswersTheLine : Obligations.GetNameAnswersTheLine := by
  unfold Obligations.GetNameAnswersTheLine
  intro s fw l l' raw i hi hs hv hok hread
  have hexec : exec i s = .next (s.onSlp (Slp.getName s.cfg)) := by rcases hi with rfl | rfl <;> rfl
  rw [hexec, State.onSlp_after (Slp.getName_ok hs hv hok hread)]

/-- Settles O33: past its gate SAVE_POWER_ON is a command that only writes. -/
theorem savePowerOnWritesOneByte : Obligations.SavePowerOnWritesOneByte := by
  unfold Obligations.SavePowerOnWritesOneByte
  intro s
  have hi : writeCommand s.cfg .slpSavePowerOn = some ([0x2B], s.cfg.vSavePo) := rfl
  refine ⟨exec_gated_other (exec_of_writeCommand hi), fun fw hs => ?_⟩
  refine ⟨exec_writeCommand_belowVersion hi hs, fun hv => ?_⟩
  have hfails l1 l2 := writeCommandFailuresEndInactive s fw _ _ _ l1 l2 hi hs hv
  exact ⟨fun l hok => writeCommandsSendTheirBytes s fw _ _ _ l hi hs hv hok,
    fun l hwrite => (hfails l l).1 hwrite, fun l l' hwrite hflush => (hfails l l').2 hwrite hflush⟩

/-- Settles O34: past its gate READ_POWER_ON is a command of one byte and one line, and answers as its image does. -/
theorem readPowerOnNeedsItsVersion : Obligations.ReadPowerOnNeedsItsVersion := by
  unfold Obligations.ReadPowerOnNeedsItsVersion
  intro s
  have hi : lineCommand s.cfg .slpReadPowerOn = some (0x2D, s.cfg.vReadPo) := rfl
  obtain ⟨k, hexec⟩ := exec_of_lineCommand hi
  refine ⟨exec_gated_other hexec, fun fw hs => ⟨exec_belowVersion hexec hs, fun hv => ?_⟩⟩
  have hfails l1 l2 l3 := lineCommandFailuresEndInactive s fw _ _ _ l1 l2 l3 hi hs hv
  refine ⟨fun l => (hfails l l l).1, fun l l' hwrite => ((hfails l l' l').2 hwrite).1, fun l l' hok => ?_⟩
  refine ⟨fun raw hread => ?_, ?_⟩
  · exact pinQueryImagesAnswerTheLine s fw l l' raw .wReadPowerOn 0x2D _ (.inr ⟨rfl, rfl, rfl⟩) hs hv hok hread
  · obtain ⟨l1, hwrite, l2, hflush, rfl⟩ := hok
    exact ((hfails l1 l2 l').2 hwrite).2 hflush

end Sys2Proof.Machine

/-! PROOFS. The exceptions (60_exceptions): the guard of every SLP command, the early errors, and the statuses of each
command.

An early error changes nothing because the ways an instruction can end say so (`Rtx.Ended`, `Slp.Ended`). Which statuses
a command can show is said by what its run can raise (`Run.RaisesOnly`): a sequence raises what its parts raise, so that
each command's statuses are those of the helpers it calls. -/

namespace Sys2Proof.Machine

/-! ### The guard of the SLP commands -/

/-- A command whose first act is RequireActive ends there while not Active (43 R211, 60_exceptions R296). -/
theorem exec_guarded_other {s : State} {i : Instr} {k : Firmware → Slp → Run Slp Result}
    (hexec : exec i s = .next (s.onSlp fun t => t.requireActive.andThen k)) (hs : ∀ fw, s.slp.scState ≠ .active fw) :
    exec i s = .next (s.slpAnswer .inactive .none) := by
  rw [hexec]
  exact congrArg _ (State.onSlp_raised (by rw [Slp.requireActive_other hs, Run.andThen_raised]))

/-- Settles O26: each command starts with RequireActive or with its version gate; CONNECT and its image look at the
lifecycle state themselves. -/
theorem commandsFailWhileNotActive : Obligations.CommandsFailWhileNotActive := by
  unfold Obligations.CommandsFailWhileNotActive
  intro s i hslp hclose
  refine ⟨fun hconnect hquery hs => ?_, ?_⟩
  · cases i <;> simp only [Instr.onSlp, Bool.false_eq_true, ne_eq, not_true_eq_false] at hslp hclose hconnect hquery
    case slpGetVersion | slpGetVersionNumber | slpSetDigital | slpReadDigital | slpReadAnalog | wReadDigital | wSetHigh |
        wSetLow | wReadAnalog =>
      exact exec_guarded_other rfl hs
    case slpGetName | slpSavePowerOn | slpReadPowerOn | wSavePowerOn | wReadPowerOn | wReadName =>
      exact exec_gated_other rfl hs
    case slpStoreName => exact exec_gated_other (by rw [← Slp.storeName_eq]; rfl) hs
    case wStoreName => exact exec_gated_other (exec_of_writeCommand rfl) hs
  · rintro (rfl | rfl) hs
    · simp only [exec, execSlpConnect, hs]
      exact congrArg _ (State.onSlp_raised rfl)
    · simp only [exec, execWQueryVersion, hs]
      exact congrArg _ (State.onSlp_raised rfl)

/-! ### The early errors -/

theorem onSlp_of_portBlock {i : Instr} {b : Block} (h : i.portBlock = some b) : i.onSlp = decide (b = .slp) := by
  cases i <;> cases h <;> rfl

/-- The statuses 1 to 7, those of the checks (60_exceptions R311). -/
abbrev Status.Early (st : Status) : Prop := 1 ≤ st.code ∧ st.code ≤ 7

theorem Status.Early.ne_ok {st : Status} (h : st.Early) : st ≠ .ok := by
  rintro rfl
  exact absurd h (by decide)

/-- An early error of RTX is an answer and nothing else. -/
theorem Rtx.Ended.eq_respond_of_early {cfg : Config} {r r' : Rtx} (h : Rtx.Ended cfg r r') {rsp : Response}
    (hrsp : r'.rsp = some rsp) (he : rsp.status.Early) : r' = r.respond rsp.status .none := by
  cases h with
  | answered st res hres => cases hrsp; rw [hres he.ne_ok]
  | bound | sent | released => cases hrsp; exact absurd rfl he.ne_ok

/-- An early error of SLP that is not the handshake's is an answer and nothing else. -/
theorem Slp.Ended.eq_respond_of_early {cfg : Config} {t u : Slp} (h : Slp.Ended cfg t u) {rsp : Response}
    (hrsp : u.rsp = some rsp) (he : rsp.status.Early)
    (hcheck : rsp.status = .unsupportedVersion → t.scState ≠ .connecting) : u = t.respond rsp.status .none := by
  cases h with
  | kept st res es l hes hst hres =>
    cases hrsp
    obtain ⟨rfl, rfl⟩ := hst he.1 he.2
    rw [hres he.ne_ok, Slp.after_nil]
  | died st es l held hes hsc hheld hst =>
    cases hrsp
    obtain ⟨hconnecting, hversion⟩ := hst he.1 he.2
    exact absurd hconnecting (hcheck hversion)
  | connected => cases hrsp; exact absurd rfl he.ne_ok

/-- Settles O47, by the ways an instruction of each block can end. -/
theorem earlyErrorsChangeNothing : Obligations.EarlyErrorsChangeNothing := by
  unfold Obligations.EarlyErrorsChangeNothing
  intro s t i h
  refine ⟨fun hi rsp hrsp he => ?_, fun hi rsp hrsp he hcheck => ?_⟩
  · obtain ⟨r, rfl, hended⟩ := exec_rtx (onSlp_of_portBlock hi) h
    rw [State.rtxAnswer, ← hended.eq_respond_of_early hrsp he]
  · obtain ⟨u, rfl, hended⟩ := exec_slp (onSlp_of_portBlock hi) h
    rw [State.slpAnswer, ← hended.eq_respond_of_early hrsp he hcheck]

/-! ### What a run can raise -/

/-- A run that ends early only with a status of the list (60_exceptions R316). -/
inductive Run.RaisesOnly {σ α : Type} (sts : List Status) : Run σ α → Prop where
  | done (a : α) (s : σ) : RaisesOnly sts (.done a s)
  | raised {e : Status} (he : e ∈ sts) (s : σ) : RaisesOnly sts (.raised e s)

section RaisesOnly
variable {sts : List Status}

theorem Run.RaisesOnly.andThen {σ α β : Type} {m : Run σ α} {k : α → σ → Run σ β} (hm : m.RaisesOnly sts)
    (hk : ∀ a s, (k a s).RaisesOnly sts) : (m.andThen k).RaisesOnly sts := by
  cases hm with
  | done a s => exact hk a s
  | raised he s => exact .raised he s

theorem repeatRun_raisesOnly {σ : Type} {f : σ → Run σ Unit} (hf : ∀ s, (f s).RaisesOnly sts) (n : Nat) (s : σ) :
    (repeatRun n f s).RaisesOnly sts := by
  induction n generalizing s with
  | zero => exact .done _ _
  | succ n ih => exact (hf s).andThen fun _ => ih

/-! ### What the commands of RTX can raise -/

section Rtx
variable {cfg : Config} {address unit : Int} {action : Action}

theorem Rtx.openPin_raisesOnly (hpin : .invalidPin ∈ sts) (hcount : .invalidRetryCount ∈ sts) (pin retries : Int)
    (r : Rtx) : (r.openPin cfg pin retries).RaisesOnly sts := by
  unfold Rtx.openPin
  split
  · exact .raised hpin r
  · split
    · exact .raised hcount r
    · exact .done _ _

theorem Rtx.closePin_raisesOnly (r : Rtx) : r.closePin.RaisesOnly sts := by
  unfold Rtx.closePin
  split <;> exact .done _ _

theorem Rtx.sendImage_raisesOnly (hclosed : .closed ∈ sts) (hunit : .invalidUnit ∈ sts) (a c : BitSequence)
    (r : Rtx) : (r.sendImage cfg a c action).RaisesOnly sts := by
  unfold Rtx.sendImage
  split
  · exact .raised hclosed r
  · split
    · exact .done _ _
    · exact .raised hunit r
  · exact .raised hclosed r

/-- BUILD raises the error of a bad address or unit (41 R155). -/
theorem buildFrame_error {e : Status} (h : buildFrame cfg address unit action = .error e) :
    e = .invalidAddress ∨ e = .invalidUnit := by
  unfold buildFrame at h
  split at h
  · split at h <;> cases h
    exact .inr rfl
  · cases h
    exact .inl rfl

/-- The ALL pair passes BUILD's checks (42 R180). -/
theorem buildFrame_allPair_ne_error (h : cfg.AllPairOk) (action : Action) (e : Status) :
    buildFrame cfg cfg.allAddress cfg.allUnit action ≠ .error e := by
  obtain ⟨⟨ha0, ha, hu1, hu⟩, -⟩ := h
  obtain ⟨code, -, -, hbuild⟩ := buildFrame_ok (action := action) ⟨ha0, ha⟩ ⟨hu1, hu⟩
  simp [hbuild]

section Transmit
variable (hbuild : ∀ e, buildFrame cfg address unit action = .error e → e ∈ sts)
include hbuild

theorem Rtx.build_raisesOnly (r : Rtx) : (r.build cfg address unit action).RaisesOnly sts := by
  unfold Rtx.build
  split
  · exact .raised (hbuild _ ‹_›) r
  · exact .done _ _

theorem Rtx.transmit_raisesOnly (hclosed : .closed ∈ sts) (r : Rtx) :
    (r.transmit cfg address unit action).RaisesOnly sts := by
  unfold Rtx.transmit
  split
  · exact .raised hclosed r
  · exact repeatRun_raisesOnly (fun r => (Rtx.build_raisesOnly hbuild r).andThen fun _ _ => .done _ _) _ r
  · exact .raised hclosed r

end Transmit

theorem Rtx.transmitAll_raisesOnly (h : cfg.AllPairOk) (hclosed : .closed ∈ sts) (r : Rtx) :
    (r.transmitAll cfg action).RaisesOnly sts := by
  unfold Rtx.transmitAll
  split
  · exact .raised hclosed r
  · exact repeatRun_raisesOnly
      (Rtx.transmit_raisesOnly (fun e he => absurd he (buildFrame_allPair_ne_error h action e)) hclosed) _ r
  · exact .raised hclosed r

end Rtx

/-! ### What the commands of SLP can raise -/

section Slp
variable {cfg : Config} (t : Slp)

theorem Slp.requireActive_raisesOnly (hinactive : .inactive ∈ sts) : t.requireActive.RaisesOnly sts := by
  rcases Slp.requireActive_cases t with ⟨fw, -, h⟩ | ⟨-, h⟩ <;> rw [h]
  · exact .done fw t
  · exact .raised hinactive t

theorem Slp.requireGate_raisesOnly (hinactive : .inactive ∈ sts) (hversion : .unsupportedVersion ∈ sts) (v : Nat) :
    (t.requireGate v).RaisesOnly sts := by
  rcases Slp.requireGate_cases v t with ⟨fw, -, h⟩ | ⟨fw, -, -, h⟩ | ⟨-, h⟩ <;> rw [h]
  · exact .done () t
  · exact .raised hversion t
  · exact .raised hinactive t

section Wire
variable (hfail : .ioFailure ∈ sts)
include hfail

theorem Slp.sendCmd_raisesOnly (bs : List Byte) : (t.sendCmd bs).RaisesOnly sts := by
  rcases Slp.sendCmd_cases bs t with ⟨l1, l2, -, -, h⟩ | ⟨es, l, -, h⟩ <;> rw [h]
  · exact .done () _
  · exact .raised hfail _

theorem Slp.setDigital_raisesOnly (hinactive : .inactive ∈ sts) (hpin : .invalidPin ∈ sts) (pin : Int) (value : Bit) :
    (t.setDigital cfg pin value).RaisesOnly sts := by
  refine (t.requireActive_raisesOnly hinactive).andThen fun _ t1 => ?_
  split
  · exact (t1.sendCmd_raisesOnly hfail _).andThen fun _ _ => .done _ _
  · exact .raised hpin t1

variable (htimeout : .ioTimeout ∈ sts)
include htimeout

theorem Slp.exchange_raisesOnly (b : Byte) : (t.exchange b).RaisesOnly sts := by
  rcases Slp.exchange_cases b t with ⟨raw, l, h⟩ | ⟨e, es, l, he, -, h⟩ <;> rw [h]
  · exact .done _ _
  · rcases he with rfl | rfl
    · exact .raised htimeout _
    · exact .raised hfail _

theorem Slp.readDigital_raisesOnly (hinactive : .inactive ∈ sts) : (t.readDigital cfg).RaisesOnly sts :=
  (t.requireActive_raisesOnly hinactive).andThen fun _ t1 =>
    (t1.exchange_raisesOnly hfail htimeout _).andThen fun _ _ => .done _ _

theorem Slp.readAnalog_raisesOnly (hinactive : .inactive ∈ sts) (hpin : .invalidPin ∈ sts)
    (hmalformed : .malformedResponse ∈ sts) (pin : Int) : (t.readAnalog cfg pin).RaisesOnly sts := by
  refine (t.requireActive_raisesOnly hinactive).andThen fun _ t1 => ?_
  split
  · refine (t1.exchange_raisesOnly hfail htimeout _).andThen fun bs t2 => ?_
    unfold Slp.analogResult
    split
    · exact .raised hmalformed _
    · split
      · exact .raised hmalformed _
      · exact .done _ _
  · exact .raised hpin t1

theorem Slp.storeName_raisesOnly (hinactive : .inactive ∈ sts) (hversion : .unsupportedVersion ∈ sts)
    (hmismatch : .nameMismatch ∈ sts) (name : NameBytes) : (t.storeName cfg name).RaisesOnly sts := by
  rw [Slp.storeName_eq]
  refine (t.requireGate_raisesOnly hinactive hversion _).andThen fun _ t1 => ?_
  refine (t1.sendCmd_raisesOnly hfail _).andThen fun _ t2 => ?_
  refine (t2.exchange_raisesOnly hfail htimeout _).andThen fun bs t3 => ?_
  unfold Slp.verifyName
  split
  · exact .done _ _
  · exact .raised hmismatch t3

/-- What an exchange and the check of its version line raise (43 R201). -/
theorem Slp.handshake_raisesOnly (hfirmware : .invalidFirmware ∈ sts) (hversion : .unsupportedVersion ∈ sts) :
    (t.handshake cfg).RaisesOnly sts := by
  rw [Slp.handshake_eq_exchange]
  refine (t.exchange_raisesOnly hfail htimeout _).andThen fun bs t1 => ?_
  unfold Slp.checkFirmware
  split
  · exact .raised hfirmware _
  · split
    · exact .raised hfirmware _
    · split
      · exact .raised hversion _
      · exact .done _ _

theorem Slp.connect_raisesOnly (hfirmware : .invalidFirmware ∈ sts) (hversion : .unsupportedVersion ∈ sts) :
    (t.connect cfg).RaisesOnly sts := by
  unfold Slp.connect
  split
  · exact .raised hfail _
  · exact Slp.handshake_raisesOnly _ hfail htimeout hfirmware hversion

end Wire

/-- A gated command of one byte and one line. -/
theorem Slp.lineRun_raisesOnly (hinactive : .inactive ∈ sts) (hversion : .unsupportedVersion ∈ sts)
    (hfail : .ioFailure ∈ sts) (htimeout : .ioTimeout ∈ sts) (v : Nat) (b : Byte) (f : List Byte → Result) :
    (t.lineRun v b fun bs t1 => .done (f bs) t1).RaisesOnly sts :=
  (t.requireGate_raisesOnly hinactive hversion v).andThen fun _ t1 =>
    (t1.exchange_raisesOnly hfail htimeout b).andThen fun _ _ => .done _ _

/-- A gated command that only writes. -/
theorem Slp.writeOnly_raisesOnly (hinactive : .inactive ∈ sts) (hversion : .unsupportedVersion ∈ sts)
    (hfail : .ioFailure ∈ sts) (v : Nat) (bs : List Byte) : (t.writeOnly v bs).RaisesOnly sts :=
  (t.requireGate_raisesOnly hinactive hversion v).andThen fun _ t1 =>
    (t1.sendCmd_raisesOnly hfail bs).andThen fun _ _ => .done _ _

theorem Slp.close_raisesOnly : t.close.RaisesOnly sts := by
  unfold Slp.close
  split <;> exact .done _ _

end Slp

end RaisesOnly

/-! ### The statuses of each command -/

/-- A response port that shows a status of the list, and a result only where it is OK (60_exceptions R305). -/
def ShowsOneOf (sts : List Status) (rsp : Option Response) : Prop :=
  ∃ r, rsp = some r ∧ r.status ∈ sts ∧ (r.status ≠ .ok → r.result = .none)

section ShowsOneOf
variable {sts : List Status} (hok : .ok ∈ sts)
include hok

theorem Rtx.finish_showsOneOf {run : Run Rtx Result} (h : run.RaisesOnly sts) :
    ShowsOneOf sts (Rtx.finish run).rsp := by
  cases h with
  | done res r => exact ⟨_, rfl, hok, fun hne => absurd rfl hne⟩
  | raised he r => exact ⟨_, rfl, he, fun _ => rfl⟩

theorem Slp.finish_showsOneOf {run : Run Slp Result} (h : run.RaisesOnly sts) :
    ShowsOneOf sts (Slp.finish run).rsp := by
  cases h with
  | done res t => exact ⟨_, rfl, hok, fun hne => absurd rfl hne⟩
  | raised he t => exact ⟨_, rfl, he, fun _ => rfl⟩

end ShowsOneOf

theorem ok_mem_allowedStatuses (i : Instr) : .ok ∈ allowedStatuses i := by
  cases i <;> exact List.mem_cons_self

/-- An RTX instruction that runs is a run on its block that raises the statuses of its row only. -/
theorem exec_rtx_raisesOnly {i : Instr} (hi : i.onSlp = false) {s t : State} (hall : s.cfg.AllPairOk)
    (h : exec i s = .next t) : ∃ run, t = s.onRtx run ∧ (run s.rtx).RaisesOnly (allowedStatuses i) := by
  cases i <;> simp only [Instr.onSlp, Bool.true_eq_false] at hi <;> simp only [exec] at h
  case rtxOpen pin retries =>
    unfold execRtxOpen at h
    split at h <;> cases h
    · exact ⟨_, rfl, Rtx.openPin_raisesOnly (by simp [allowedStatuses]) (by simp [allowedStatuses]) pin retries _⟩
    · exact ⟨_, rfl, .raised (by simp [allowedStatuses]) _⟩
  case rtxTransmit address unit action =>
    cases h
    refine ⟨_, rfl, (Rtx.transmit_raisesOnly (fun e he => ?_) (by simp [allowedStatuses]) _).andThen
      fun _ _ => .done _ _⟩
    rcases buildFrame_error he with rfl | rfl <;> simp [allowedStatuses]
  case rtxTransmitAll action =>
    cases h
    exact ⟨_, rfl, (Rtx.transmitAll_raisesOnly hall (by simp [allowedStatuses]) _).andThen fun _ _ => .done _ _⟩
  case rtxClose => cases h; exact ⟨_, rfl, Rtx.closePin_raisesOnly _⟩
  case txOn | txOff =>
    cases h
    exact ⟨_, rfl, Rtx.sendImage_raisesOnly (by simp [allowedStatuses]) (by simp [allowedStatuses]) _ _ _⟩
  case sym0 | sym1 | transmitBits => cases h; exact ⟨_, rfl, .done _ _⟩
  case build address unit action =>
    cases h
    refine ⟨_, rfl, (Rtx.build_raisesOnly (fun e he => ?_) _).andThen fun _ _ => .done _ _⟩
    rcases buildFrame_error he with rfl | rfl <;> simp [allowedStatuses]

/-- An SLP instruction that runs is a run on its block that raises the statuses of its row only. -/
theorem exec_slp_raisesOnly {i : Instr} (hi : i.onSlp = true) {s t : State} (h : exec i s = .next t) :
    ∃ run, t = s.onSlp run ∧ (run s.slp).RaisesOnly (allowedStatuses i) := by
  cases i <;> simp only [Instr.onSlp, Bool.false_eq_true] at hi <;> simp only [exec] at h
  case slpConnect =>
    unfold execSlpConnect at h
    split at h <;> cases h
    · refine ⟨_, rfl, Slp.connect_raisesOnly _ ?_ ?_ ?_ ?_⟩ <;> simp [allowedStatuses]
    · exact ⟨_, rfl, .raised (by simp [allowedStatuses]) _⟩
  case wQueryVersion =>
    unfold execWQueryVersion at h
    split at h <;> cases h
    · refine ⟨_, rfl, ?_⟩
      split
      · apply Slp.handshake_raisesOnly <;> simp [allowedStatuses]
      · apply Slp.connect_raisesOnly <;> simp [allowedStatuses]
    · exact ⟨_, rfl, .raised (by simp [allowedStatuses]) _⟩
  case slpGetVersion | slpGetVersionNumber =>
    cases h
    exact ⟨_, rfl, (Slp.requireActive_raisesOnly _ (by simp [allowedStatuses])).andThen fun _ _ => .done _ _⟩
  case slpSetDigital | wSetHigh | wSetLow =>
    cases h
    refine ⟨_, rfl, Slp.setDigital_raisesOnly _ ?_ ?_ ?_ _ _⟩ <;> simp [allowedStatuses]
  case slpReadDigital | wReadDigital =>
    cases h
    refine ⟨_, rfl, Slp.readDigital_raisesOnly _ ?_ ?_ ?_⟩ <;> simp [allowedStatuses]
  case slpReadAnalog | wReadAnalog =>
    cases h
    refine ⟨_, rfl, Slp.readAnalog_raisesOnly _ ?_ ?_ ?_ ?_ ?_ _⟩ <;> simp [allowedStatuses]
  case slpGetName | wReadName | slpReadPowerOn | wReadPowerOn =>
    cases h
    refine ⟨_, rfl, Slp.lineRun_raisesOnly _ ?_ ?_ ?_ ?_ _ _ _⟩ <;> simp [allowedStatuses]
  case slpSavePowerOn | wSavePowerOn =>
    cases h
    refine ⟨_, rfl, Slp.writeOnly_raisesOnly _ ?_ ?_ ?_ _ _⟩ <;> simp [allowedStatuses]
  case wStoreName name =>
    obtain rfl := Host.Outcome.next.inj ((exec_of_writeCommand (i := .wStoreName name) rfl).symm.trans h)
    refine ⟨_, rfl, Slp.writeOnly_raisesOnly _ ?_ ?_ ?_ _ _⟩ <;> simp [allowedStatuses]
  case slpStoreName =>
    cases h
    refine ⟨_, rfl, Slp.storeName_raisesOnly _ ?_ ?_ ?_ ?_ ?_ _⟩ <;> simp [allowedStatuses]
  case slpClose => cases h; exact ⟨_, rfl, Slp.close_raisesOnly _⟩

/-- Settles O48: a run that raises the statuses of a row only ends with one of them, or with OK. -/
theorem statusesOfEachCommand : Obligations.StatusesOfEachCommand := by
  unfold Obligations.StatusesOfEachCommand
  rintro s t i ⟨-, -, hall, -⟩ h
  cases hi : i.onSlp with
  | false =>
    obtain ⟨run, rfl, hrun⟩ := exec_rtx_raisesOnly hi hall h
    exact Rtx.finish_showsOneOf (ok_mem_allowedStatuses i) hrun
  | true =>
    obtain ⟨run, rfl, hrun⟩ := exec_slp_raisesOnly hi h
    exact Slp.finish_showsOneOf (ok_mem_allowedStatuses i) hrun

end Sys2Proof.Machine

/-! PROOFS. The reset inputs (70_reset_and_hazards R340, R342): each block's reset in the spec's words, and that it
reaches no other part of the machine. -/

namespace Sys2Proof.Machine

/-- RTX keeps its port, and its trace when a command is in the middle of its run: latched or transmitting (70 R342). -/
theorem Rtx.resetBlock_eq (r : Rtx) :
    r.resetBlock = { Rtx.reset with
      cmd := r.cmd
      txTrace := if r.latch = none ∧ r.pos = none then [] else r.txTrace } := by
  simp [Rtx.resetBlock, Rtx.cmdReady]

/-- SLP keeps its port and the transport's answers, and its trace when a command is latched (70 R342). -/
theorem Slp.resetBlock_eq (t : Slp) :
    t.resetBlock = { Slp.reset with
      cmd := t.cmd
      link := t.link
      slTrace := if t.latch = none then [] else t.slTrace } := by
  simp [Slp.resetBlock, Slp.cmdReady]

theorem State.resetBlocks_rtx_of_rst {s : State} (h : s.rtx.rst = true) : s.resetBlocks.rtx = s.rtx.resetBlock :=
  if_pos h

theorem State.resetBlocks_rtx_of_not_rst {s : State} (h : s.rtx.rst = false) : s.resetBlocks.rtx = s.rtx :=
  if_neg (Bool.eq_false_iff.1 h)

theorem State.resetBlocks_slp_of_rst {s : State} (h : s.slp.rst = true) : s.resetBlocks.slp = s.slp.resetBlock :=
  if_pos h

theorem State.resetBlocks_slp_of_not_rst {s : State} (h : s.slp.rst = false) : s.resetBlocks.slp = s.slp :=
  if_neg (Bool.eq_false_iff.1 h)

/-- Settles O57: a raised input makes the step `State.resetBlocks`, which writes each block by its own input only. -/
theorem resetInputsResetTheirBlock : Obligations.ResetInputsResetTheirBlock := by
  unfold Obligations.ResetInputsResetTheirBlock
  intro s hrst
  have hreset : ¬ s.NotReset := fun ⟨hr, hs⟩ => by simp [hr, hs] at hrst
  refine ⟨s.resetBlocks, step_of_reset hreset, rfl, rfl, rfl, State.resetBlocks_rtx_of_not_rst,
    State.resetBlocks_slp_of_not_rst, fun hr => ?_, fun hs => ?_⟩
  · rw [State.resetBlocks_rtx_of_rst hr, Rtx.resetBlock_eq]
  · rw [State.resetBlocks_slp_of_rst hs, Slp.resetBlock_eq]

end Sys2Proof.Machine
